-- ==== Sys2Proof/Word.lean ====
section
/-! DEFINITION. Word.lean: the widths of the block's values (`00_scope.md` R5, R6, R11; `10_state.md` R20 to R38). -/

namespace Sys2Proof

/-- A byte of a text or of a record field (R25, R26). -/
abbrev Byte := BitVec 8

/-- A word of the multi-precision number, 0..2047 (R11, R20). -/
abbrev Word := BitVec 11

/-- A codeword index register value (R11, R23); the legal values are 0..1364. -/
abbrev Index := BitVec 11

/-- A frame check sequence, 0..2047 (R11, R32). -/
abbrev Fcs := BitVec 11

/-- A character or a 13-bit codeword pattern, 0..8191 (R11, R22). -/
abbrev Char13 := BitVec 13

/-- A command word (R90). -/
abbrev CmdWord := BitVec 64

/-- A host register address (R63). -/
abbrev RegAddr := BitVec 14

/-- A host register datum (R63). -/
abbrev RegData := BitVec 32

/-- The multi-precision number: ten words, most significant first (R11, R20). -/
abbrev Number := Vector Word 10

/-- The ten characters (R22). -/
abbrev Chars := Vector Char13 10

/-- The ten codeword indices (R23). -/
abbrev Codewords := Vector Index 10

end Sys2Proof
end

