-- ==== Sys2Proof/Syntax.lean ====
section
/-! DEFINITION. Syntax.lean: the command set, one constructor per row of `spec/opcode_table.json`
(`30_encoding.md` R94). The operands are the immediate fields of the command word (R92); an operand
out of its field's range cannot be written down. Every other operand of a command is implicit. -/

namespace Sys2Proof

/-- The 20 commands (R94). `a` is operand A (20 bits), `b` is operand B (32 bits). -/
inductive Instr where
  /-- TBLBUILD, op 0x01, R125. -/
  | tblbuild
  /-- MPCLR, op 0x10, R146. -/
  | mpclr
  /-- MPISZ, op 0x11, R147. -/
  | mpisz
  /-- MPADD b, op 0x12, R148. -/
  | mpadd (b : BitVec 32)
  /-- MPSUB b, op 0x13, R149. -/
  | mpsub (b : BitVec 32)
  /-- MPMULADD a, b, op 0x14, R150. -/
  | mpmuladd (a : BitVec 20) (b : BitVec 32)
  /-- MPDIVMOD a, op 0x15, R151. -/
  | mpdivmod (a : BitVec 20)
  /-- FCSCALC, op 0x20, R173. -/
  | fcscalc
  /-- LOADTXT, op 0x30, R187. -/
  | loadtxt
  /-- PERMFWD, op 0x31, R188. -/
  | permfwd
  /-- PERMINV, op 0x32, R189. -/
  | perminv
  /-- FLIPAD, op 0x33, R190. -/
  | flipad
  /-- CWENC, op 0x40, R202. -/
  | cwenc
  /-- CWDEC, op 0x41, R204. -/
  | cwdec
  /-- PACK, op 0x50, R225. -/
  | pack
  /-- UNPACK, op 0x51, R227. -/
  | unpack
  /-- ENCODE, op 0x60, R251. -/
  | encode
  /-- DECODE, op 0x61, R253. -/
  | decode
  /-- LENFIX, op 0x70, R273. -/
  | lenfix
  /-- BITFIX, op 0x71, R277. -/
  | bitfix
deriving DecidableEq, Repr

end Sys2Proof
end

