-- ==== Sys2Proof/WellFormed.lean ====
section
/-! DEFINITION. WellFormed.lean: which command words are well formed (`30_encoding.md` R91, R93).

An `Instr` is well formed by its type: its operands are bit fields of exactly the widths R92 gives. What can
be ill formed is a command WORD. The four checks below are R93's `legal(word)`, written over the word as a
number (R91: `word = (op << 56) | (rsv << 52) | (A << 32) | B`) and without the decoder, so that the decoder
of Decode.lean can be compared with them. -/

namespace Sys2Proof

/-- The 20 assigned opcodes (R94). -/
def assignedOpcodes : List Nat :=
  [0x01, 0x10, 0x11, 0x12, 0x13, 0x14, 0x15, 0x20, 0x30, 0x31, 0x32, 0x33, 0x40, 0x41, 0x50, 0x51,
   0x60, 0x61, 0x70, 0x71]

/-- `op = word[63:56]` (R91). -/
def wordOp (w : CmdWord) : Nat := w.toNat / 2 ^ 56

/-- `rsv = word[55:52]` (R91). -/
def wordRsv (w : CmdWord) : Nat := w.toNat / 2 ^ 52 % 2 ^ 4

/-- `A = word[51:32]` (R91). -/
def wordA (w : CmdWord) : Nat := w.toNat / 2 ^ 32 % 2 ^ 20

/-- `B = word[31:0]` (R91). -/
def wordB (w : CmdWord) : Nat := w.toNat % 2 ^ 32

/-- Check 1 of R93: op is one of the 20 opcodes. -/
def opcodeAssigned (w : CmdWord) : Bool := assignedOpcodes.contains (wordOp w)

/-- Check 2 of R93: rsv = 0. -/
def reservedClear (w : CmdWord) : Bool := wordRsv w == 0

/-- Check 3 of R93: A = 0 or op in 0x14, 0x15. -/
def operandAAllowed (w : CmdWord) : Bool := wordA w == 0 || [0x14, 0x15].contains (wordOp w)

/-- Check 4 of R93: B = 0 or op in 0x12, 0x13, 0x14. -/
def operandBAllowed (w : CmdWord) : Bool := wordB w == 0 || [0x12, 0x13, 0x14].contains (wordOp w)

/-- `legal(word)` (R93). -/
def legalWord (w : CmdWord) : Bool :=
  opcodeAssigned w && reservedClear w && operandAAllowed w && operandBAllowed w

end Sys2Proof
end

