-- ==== Sys2Proof/Decode.lean ====
section
/-! DEFINITION. Decode.lean: the decoder and the encoder of command words (`30_encoding.md` R90 to R97, R100).
Decoding is total: each of the 2^64 words is a command or is rejected by name (R96). -/

namespace Sys2Proof

/-- Why a word is no command (R96). Safe: the machine runs such a word as R303 says (STATUS 0x7F). -/
inductive DecodeError where
  /-- op is one of the 236 unassigned values. -/
  | unassignedOpcode (op : BitVec 8)
  /-- rsv is not 0. -/
  | reservedNotZero (rsv : BitVec 4)
  /-- A is not 0 in a command that does not use A. -/
  | operandANotUsed (a : BitVec 20)
  /-- B is not 0 in a command that does not use B. -/
  | operandBNotUsed (b : BitVec 32)
deriving DecidableEq, Repr

/-- `word[63:56]` (R91). -/
def opField (w : CmdWord) : BitVec 8 := w.extractLsb' 56 8

/-- `word[55:52]` (R91). -/
def rsvField (w : CmdWord) : BitVec 4 := w.extractLsb' 52 4

/-- `word[51:32]` (R91). -/
def aField (w : CmdWord) : BitVec 20 := w.extractLsb' 32 20

/-- `word[31:0]` (R91). -/
def bField (w : CmdWord) : BitVec 32 := w.extractLsb' 0 32

/-- The word's reserved field must be 0 (R93). -/
def checkRsv (w : CmdWord) (r : Except DecodeError Instr) : Except DecodeError Instr :=
  if rsvField w = 0 then r else .error (.reservedNotZero (rsvField w))

/-- A must be 0: the command does not use it (R93). -/
def checkA (w : CmdWord) (r : Except DecodeError Instr) : Except DecodeError Instr :=
  if aField w = 0 then r else .error (.operandANotUsed (aField w))

/-- B must be 0: the command does not use it (R93). -/
def checkB (w : CmdWord) (r : Except DecodeError Instr) : Except DecodeError Instr :=
  if bField w = 0 then r else .error (.operandBNotUsed (bField w))

/-- A command without operands. -/
def plain (w : CmdWord) (i : Instr) : Except DecodeError Instr :=
  checkRsv w (checkA w (checkB w (.ok i)))

/-- A command that uses B only. -/
def usesB (w : CmdWord) (i : BitVec 32 → Instr) : Except DecodeError Instr :=
  checkRsv w (checkA w (.ok (i (bField w))))

/-- A command that uses A only. -/
def usesA (w : CmdWord) (i : BitVec 20 → Instr) : Except DecodeError Instr :=
  checkRsv w (checkB w (.ok (i (aField w))))

/-- A command that uses A and B. -/
def usesAB (w : CmdWord) (i : BitVec 20 → BitVec 32 → Instr) : Except DecodeError Instr :=
  checkRsv w (.ok (i (aField w) (bField w)))

/-- The decoder (R93, R94). -/
def decodeWord (w : CmdWord) : Except DecodeError Instr :=
  match (opField w).toNat with
  | 0x01 => plain w .tblbuild
  | 0x10 => plain w .mpclr
  | 0x11 => plain w .mpisz
  | 0x12 => usesB w .mpadd
  | 0x13 => usesB w .mpsub
  | 0x14 => usesAB w .mpmuladd
  | 0x15 => usesA w .mpdivmod
  | 0x20 => plain w .fcscalc
  | 0x30 => plain w .loadtxt
  | 0x31 => plain w .permfwd
  | 0x32 => plain w .perminv
  | 0x33 => plain w .flipad
  | 0x40 => plain w .cwenc
  | 0x41 => plain w .cwdec
  | 0x50 => plain w .pack
  | 0x51 => plain w .unpack
  | 0x60 => plain w .encode
  | 0x61 => plain w .decode
  | 0x70 => plain w .lenfix
  | 0x71 => plain w .bitfix
  | _ => .error (.unassignedOpcode (opField w))

/-- The opcode of a command (R94, column op). -/
def opcodeOf : Instr → BitVec 8
  | .tblbuild => 0x01
  | .mpclr => 0x10
  | .mpisz => 0x11
  | .mpadd _ => 0x12
  | .mpsub _ => 0x13
  | .mpmuladd _ _ => 0x14
  | .mpdivmod _ => 0x15
  | .fcscalc => 0x20
  | .loadtxt => 0x30
  | .permfwd => 0x31
  | .perminv => 0x32
  | .flipad => 0x33
  | .cwenc => 0x40
  | .cwdec => 0x41
  | .pack => 0x50
  | .unpack => 0x51
  | .encode => 0x60
  | .decode => 0x61
  | .lenfix => 0x70
  | .bitfix => 0x71

/-- Operand A as the word carries it: 0 in a command that does not use it (R91). -/
def encodedA : Instr → BitVec 20
  | .mpmuladd a _ => a
  | .mpdivmod a => a
  | .tblbuild | .mpclr | .mpisz | .mpadd _ | .mpsub _ | .fcscalc | .loadtxt | .permfwd | .perminv
  | .flipad | .cwenc | .cwdec | .pack | .unpack | .encode | .decode | .lenfix | .bitfix => 0

/-- Operand B as the word carries it: 0 in a command that does not use it (R91). -/
def encodedB : Instr → BitVec 32
  | .mpadd b => b
  | .mpsub b => b
  | .mpmuladd _ b => b
  | .tblbuild | .mpclr | .mpisz | .mpdivmod _ | .fcscalc | .loadtxt | .permfwd | .perminv
  | .flipad | .cwenc | .cwdec | .pack | .unpack | .encode | .decode | .lenfix | .bitfix => 0

/-- The encoder: op, rsv = 0, A, B from the most significant end (R91). -/
def encodeWord (i : Instr) : CmdWord := opcodeOf i ++ 0#4 ++ encodedA i ++ encodedB i

/-- The instruction the decoder reads from a table word of `nbits` bits (all bits above them 0). A command is
one 64-bit word, so the word is the number itself (R90). -/
def decodeTableWord (nbits w : Nat) : Option Instr :=
  (decodeWord (BitVec.ofNat 64 (w % 2 ^ nbits))).toOption

/-- A row of R94's table: the word selects the command iff `word & mask = match`. -/
structure OpcodeRow where
  mnemonic : String
  matchBits : CmdWord
  maskBits : CmdWord
deriving DecidableEq, Repr

/-- R94's table, in its order. -/
def opcodeTable : List OpcodeRow :=
  [⟨"TBLBUILD", 0x0100000000000000, 0xFFFFFFFFFFFFFFFF⟩, ⟨"MPCLR", 0x1000000000000000, 0xFFFFFFFFFFFFFFFF⟩,
   ⟨"MPISZ", 0x1100000000000000, 0xFFFFFFFFFFFFFFFF⟩, ⟨"MPADD", 0x1200000000000000, 0xFFFFFFFF00000000⟩,
   ⟨"MPSUB", 0x1300000000000000, 0xFFFFFFFF00000000⟩, ⟨"MPMULADD", 0x1400000000000000, 0xFFF0000000000000⟩,
   ⟨"MPDIVMOD", 0x1500000000000000, 0xFFF00000FFFFFFFF⟩, ⟨"FCSCALC", 0x2000000000000000, 0xFFFFFFFFFFFFFFFF⟩,
   ⟨"LOADTXT", 0x3000000000000000, 0xFFFFFFFFFFFFFFFF⟩, ⟨"PERMFWD", 0x3100000000000000, 0xFFFFFFFFFFFFFFFF⟩]
  ++
  [⟨"PERMINV", 0x3200000000000000, 0xFFFFFFFFFFFFFFFF⟩, ⟨"FLIPAD", 0x3300000000000000, 0xFFFFFFFFFFFFFFFF⟩,
   ⟨"CWENC", 0x4000000000000000, 0xFFFFFFFFFFFFFFFF⟩, ⟨"CWDEC", 0x4100000000000000, 0xFFFFFFFFFFFFFFFF⟩,
   ⟨"PACK", 0x5000000000000000, 0xFFFFFFFFFFFFFFFF⟩, ⟨"UNPACK", 0x5100000000000000, 0xFFFFFFFFFFFFFFFF⟩,
   ⟨"ENCODE", 0x6000000000000000, 0xFFFFFFFFFFFFFFFF⟩, ⟨"DECODE", 0x6100000000000000, 0xFFFFFFFFFFFFFFFF⟩,
   ⟨"LENFIX", 0x7000000000000000, 0xFFFFFFFFFFFFFFFF⟩, ⟨"BITFIX", 0x7100000000000000, 0xFFFFFFFFFFFFFFFF⟩]

/-- The word selects the row's command (R93). -/
def selects (r : OpcodeRow) (w : CmdWord) : Bool := w &&& r.maskBits == r.matchBits

/-- The mnemonic of a command (R94). -/
def mnemonicOf : Instr → String
  | .tblbuild => "TBLBUILD"
  | .mpclr => "MPCLR"
  | .mpisz => "MPISZ"
  | .mpadd _ => "MPADD"
  | .mpsub _ => "MPSUB"
  | .mpmuladd _ _ => "MPMULADD"
  | .mpdivmod _ => "MPDIVMOD"
  | .fcscalc => "FCSCALC"
  | .loadtxt => "LOADTXT"
  | .permfwd => "PERMFWD"
  | .perminv => "PERMINV"
  | .flipad => "FLIPAD"
  | .cwenc => "CWENC"
  | .cwdec => "CWDEC"
  | .pack => "PACK"
  | .unpack => "UNPACK"
  | .encode => "ENCODE"
  | .decode => "DECODE"
  | .lenfix => "LENFIX"
  | .bitfix => "BITFIX"

end Sys2Proof
end

