-- ==== Sys2Proof/Config.lean ====
section
/-! DEFINITION. Config.lean: the parameters of the block. R5's constants and R6's capacities have the values the
spec gives them; the two parameters the spec leaves OPEN (HOST_BASE, LAT) have no body, so nothing can be proved
of them. The constants R7 supplies (PERM, FCS_POLY, FCS_INIT, the FCS-bit map, the multiplier sequences) stand
with the rules that define them: Machine/Perm.lean, Machine/Fcs.lean, Machine/Codeword.lean, Machine/Record.lean. -/

namespace Sys2Proof.Config

/-- DIV_LAST (R5): the divisor that yields codeword 9. -/
abbrev divLast : Nat := 636

/-- DIV_MID (R5): the divisor that yields codewords 8..1. -/
abbrev divMid : Nat := 1365

/-- CW0_OFFSET (R5): added to codeword 0 when the top FCS bit is set. -/
abbrev cw0Offset : Nat := 659

/-- CW0_MAX (R5): the largest legal looked-up codeword 0. -/
abbrev cw0Max : Nat := 1317

/-- CW9_MAX (R5): the largest legal looked-up codeword 9. -/
abbrev cw9Max : Nat := 1270

/-- LEN_CAP (R5): the length-repair error cap. -/
abbrev lenCap : Nat := 5

/-- PROD_CAP (R5): the bound on the product of candidate counts. -/
abbrev prodCap : Nat := 1000

/-- MARK_ZIP (R5). -/
abbrev markZip : Nat := 1

/-- MARK_PLUS4 (R5). -/
abbrev markPlus4 : Nat := 100000

/-- MARK_DP (R5). -/
abbrev markDp : Nat := 1000000000

/-- TXT_CAP (R6): the bytes of the text buffer TXT. -/
abbrev txtCap : Nat := 128

/-- FIELD_CAP (R6): the bytes of each record field buffer. -/
abbrev fieldCap : Nat := 32

/-- HOST_BASE (R65, D4): where the register space sits in the host's own address map. OPEN; no rule uses it. -/
opaque hostBase : Nat

/-- LAT(cmd) (R6, R74, R353, D33): the time a command takes. OPEN; no rule depends on it. -/
opaque latency : Instr → Nat

end Sys2Proof.Config
end

