-- ==== Sys2Proof/Machine/State.lean ====
section
/-! DEFINITION. Machine/State.lean: the block's state as plain data (`10_state.md` R20 to R41) and the state after
reset (`70_reset_and_hazards.md` R340). One field per register of R41, in R41's order; PERM is ROM, a constant
(Machine/Perm.lean). The last field, `host`, is the MODEL's own: the other agent's side of the two ports (R10). -/

namespace Sys2Proof.Machine

/-- A symbol of the candidate (R180): T, A, D, F or the placeholder X. The codes 5..7 never occur (R24). -/
inductive Symbol where
  | t | a | d | f | x
deriving DecidableEq, Repr

/-- A candidate: 65 symbols (R11, R24). -/
abbrev Candidate := Vector Symbol 65

/-- The phases of the sequencer (R27). -/
inductive Phase where
  | idle | norm | strict | lenscan | candgen | search | flip | commit | fail
deriving DecidableEq, Repr

/-- The values of STATUS (R300). Every other value never occurs. -/
inductive Status where
  | ok | okRepaired
  | vZip | vPlus4 | vDeliveryPt | vBarcodeId | vServiceType | vMailerId | vSerialNum
  | formatLength | formatSymbol | unrecoverable
  | invalid | ambiguous | orientation
  | operand | illegalCmd
deriving DecidableEq, Repr

/-- The values of REASON (R30). -/
inductive Reason where
  | none | lookup | range | odd | fcs | route
deriving DecidableEq, Repr

/-- The values of LFK (R36). -/
inductive LengthFix where
  | none | insert | delete
deriving DecidableEq, Repr

/-- One assignment of the table build (R123): the entries ENC[index], DEC[pattern], DEC[pattern ^ 8191],
FCT[pattern] and FCT[pattern ^ 8191]. -/
structure Assignment where
  index : Index
  pattern : Char13
deriving DecidableEq, Repr

/-- One thing the outside does to the block: the three host actions (R10), or a reset (R341). -/
inductive Input where
  /-- The host presents a word at the command port (R90). -/
  | command (word : CmdWord)
  /-- The host reads a register (R66). -/
  | read (addr : RegAddr)
  /-- The host writes a register (R66). -/
  | write (addr : RegAddr) (data : RegData)
  /-- The block is reset (R340, R341). -/
  | reset
deriving DecidableEq, Repr

/-- The host's side of the ports, which the block does not own: what the host has still to present, first first
(an action presented while another runs is delayed, not dropped and not reordered, R74), and the data that
register reads have returned to it, oldest first. -/
structure HostSide where
  pending : List Input
  answers : List RegData
deriving DecidableEq, Repr

/-- The machine's state. -/
structure State where
  /-- N[0..9], R20. -/
  num : Number
  /-- CH[0..9], R22. -/
  ch : Chars
  /-- CW[0..9], R23. -/
  cw : Codewords
  /-- CAND[0..64], R24. -/
  cand : Candidate
  /-- TXT[0..127], R25. -/
  txt : Vector Byte 128
  /-- TXTLEN, R25. -/
  txtlen : BitVec 8
  /-- REC[0..6][0..31], R26. -/
  recb : Vector (Vector Byte 32) 7
  /-- RLEN[0..6], R26. -/
  rlen : Vector (BitVec 6) 7
  /-- SEQ, R27. -/
  seq : Phase
  /-- FLAGS bit 0, Z, R28. -/
  z : Bool
  /-- FLAGS bit 1, OVF, R28. -/
  ovf : Bool
  /-- FLAGS bit 2, TBLRDY, R28. -/
  tblrdy : Bool
  /-- STATUS, R29. -/
  status : Status
  /-- REASON, R30. -/
  reason : Reason
  /-- REM, R31. -/
  rem : BitVec 20
  /-- FCS, R32. -/
  fcs : Fcs
  /-- RFCS, R33. -/
  rfcs : Fcs
  /-- ERRCNT, R34. -/
  errcnt : BitVec 4
  /-- PROD, R35. -/
  prod : BitVec 11
  /-- LENFIX bits [1:0], LFK, R36. -/
  lfk : LengthFix
  /-- LENFIX bits [14:8], LFP, R36. -/
  lfp : BitVec 7
  /-- SUG[0..64], R37. -/
  sug : Vector Byte 65
  /-- HL[0..64], R38. -/
  hl : Vector Bool 65
  /-- The spaces ENC, DEC and FCT (R39, R61), as the assignments the build has made, in its order (R123).
  Entries no assignment has written are unpopulated. -/
  tables : List Assignment
  /-- The host's side of the ports. The MODEL's own field. -/
  host : HostSide
deriving DecidableEq, Repr

/-- There are no faults: nothing in this block is stuck and nothing is any value (`93_implementation_defined.md`,
part 1), every command terminates (R352), and a failure is a STATUS code of a next state (R301), an illegal word
included (R303). The type is empty, so no step can end in one. -/
inductive Fault where
deriving DecidableEq, Repr

/-- Why the model, not the machine, would stop. -/
inductive Refusal where
  /-- Raised by `exec`'s arm of an instruction that has no meaning yet; no arm raises it. Safe: the model stops
  where the hardware goes on. -/
  | notModelled (mnemonic : String)
deriving DecidableEq, Repr

/-- The outcome of a step of this machine. -/
abbrev Result := Host.Outcome State Fault Refusal

/-- The state after reset (R340): every register at the value R340's table gives; the tables are not built; the
host has presented nothing and been answered nothing. -/
def State.reset : State where
  num := Vector.replicate 10 0
  ch := Vector.replicate 10 0
  cw := Vector.replicate 10 0
  cand := Vector.replicate 65 .t
  txt := Vector.replicate 128 0
  txtlen := 0
  recb := Vector.replicate 7 (Vector.replicate 32 0)
  rlen := Vector.replicate 7 0
  seq := .idle
  z := false
  ovf := false
  tblrdy := false
  status := .ok
  reason := .none
  rem := 0
  fcs := 0
  rfcs := 0
  errcnt := 0
  prod := 0
  lfk := .none
  lfp := 0
  sug := Vector.replicate 65 0
  hl := Vector.replicate 65 false
  tables := []
  host := { pending := [], answers := [] }

end Sys2Proof.Machine
end

