-- ==== Sys2Proof/Machine/Ops.lean ====
section
/-! DEFINITION. Machine/Ops.lean: the shared operations: how a command ends (`60_exceptions.md` R301, R303), how a
register file takes the first entries of a sequence, the sequencer's phase, the host's side of the ports, reset.

TAKING AN EXCEPTION here is R301's `raise`: STATUS and REASON are written and SEQ returns to IDLE. R306: it saves
nothing, switches no mode, uses no vector and transfers control nowhere. R307: there is no return from one. -/

namespace Sys2Proof.Machine

/-- `raise <STATUS>(reason)` (R301): the command stops; the status, the reason (0 when none is given) and IDLE are
written and nothing else. -/
def raise (st : Status) (r : Reason) (s : State) : State :=
  { s with status := st, reason := r, seq := .idle }

/-- `STATUS <- 0x00` at the end of a legal command; REASON is 0 (R30), SEQ is back at IDLE (R27). -/
def complete (s : State) : State := raise .ok .none s

/-- The whole effect of an illegal command (R96, R303): STATUS <- 0x7F; REASON, TBLRDY and every other register
keep their values. -/
def illegalCommand (s : State) : State := { s with status := .illegalCmd }

/-- `SEQ <- phase` (R9, R27). -/
def setPhase (p : Phase) (s : State) : State := { s with seq := p }

/-- A vector from a list of exactly its length. -/
def vecOfList {α : Type} {n : Nat} (l : List α) (h : l.length = n) : Vector α n :=
  ⟨l.toArray, by simpa using h⟩

/-- A register file from the first `n` elements of a list; `fill` where the list is shorter. -/
def vecFrom {α : Type} (n : Nat) (fill : α) (l : List α) : Vector α n :=
  Vector.ofFn fun i => l.getD i.val fill

/-- A register file with its entries 0 .. len(l)-1 overwritten by `l`; the entries beyond keep their values (R25:
TXT[65..127] unchanged; R26: bytes beyond the new length unchanged). -/
def writeFront {α : Type} {n : Nat} (v : Vector α n) (l : List α) : Vector α n :=
  Vector.ofFn fun i => l.getD i.val v[i]

/-- The next thing the outside presents (R71: in the order issued), and the state in which it has been taken. -/
def takeInput (s : State) : Option (Input × State) :=
  match s.host.pending with
  | [] => none
  | i :: rest => some (i, { s with host := { s.host with pending := rest } })

/-- A register read returns `d` to the host (R66). -/
def answer (d : RegData) (s : State) : State :=
  { s with host := { s.host with answers := s.host.answers ++ [d] } }

/-- A reset (R340, R341): every register of the block as after reset. What the host has still to present and what
it has been answered are the host's, and stay. -/
def resetBlock (s : State) : State := { State.reset with host := s.host }

end Sys2Proof.Machine
end

