-- ==== Sys2Proof/Machine/Flags.lean ====
section
/-! DEFINITION. Machine/Flags.lean: FLAGS (`10_state.md` R28) and the numeric codes of the coded registers STATUS,
REASON, SEQ, LFK (`60_exceptions.md` R300, `10_state.md` R27, R30, R36). -/

namespace Sys2Proof.Machine

/-- MPISZ writes Z; no other command does (R28). -/
def setZ (b : Bool) (s : State) : State := { s with z := b }

/-- MPADD, MPSUB and MPMULADD write OVF; no other command does (R28). -/
def setOvf (b : Bool) (s : State) : State := { s with ovf := b }

/-- OVF of an addition or a multiply-add: 1 iff the carry out of N[0] is not 0 (R28). -/
def carryOvf (c : Nat) : Bool := c != 0

/-- The FLAGS register: bit 0 Z, bit 1 OVF, bit 2 TBLRDY, the others 0 (R28). -/
def flagsWord (s : State) : BitVec 3 :=
  (BitVec.ofBool s.tblrdy ++ BitVec.ofBool s.ovf) ++ BitVec.ofBool s.z

/-- The STATUS codes (R300). -/
def statusCode : Status → BitVec 8
  | .ok => 0x00
  | .okRepaired => 0x01
  | .vZip => 0x11
  | .vPlus4 => 0x12
  | .vDeliveryPt => 0x13
  | .vBarcodeId => 0x14
  | .vServiceType => 0x15
  | .vMailerId => 0x16
  | .vSerialNum => 0x17
  | .formatLength => 0x20
  | .formatSymbol => 0x21
  | .unrecoverable => 0x22
  | .invalid => 0x30
  | .ambiguous => 0x31
  | .orientation => 0x40
  | .operand => 0x7E
  | .illegalCmd => 0x7F

/-- The REASON values (R30). -/
def reasonCode : Reason → BitVec 4
  | .none => 0
  | .lookup => 1
  | .range => 2
  | .odd => 3
  | .fcs => 4
  | .route => 5

/-- The SEQ values (R27). -/
def phaseCode : Phase → BitVec 4
  | .idle => 0
  | .norm => 1
  | .strict => 2
  | .lenscan => 3
  | .candgen => 4
  | .search => 5
  | .flip => 6
  | .commit => 7
  | .fail => 8

/-- The LFK values (R36). -/
def lengthFixCode : LengthFix → BitVec 2
  | .none => 0
  | .insert => 1
  | .delete => 2

end Sys2Proof.Machine
end

