-- ==== Sys2Proof/Machine/Operands.lean ====
section
/-! DEFINITION. Machine/Operands.lean: every operand form. The explicit operands are the immediates A and B
(`30_encoding.md` R92); the implicit ones that are more than a register are the text (`10_state.md` R25) and the
record fields (R26), with their normalisation (`43_permutation.md` R182, `45_record.md` R220, R221). -/

namespace Sys2Proof.Machine

/-- Operand A: an unsigned immediate, not extended or scaled (R92). -/
def operandA (a : BitVec 20) : Nat := a.toNat

/-- Operand B: an unsigned immediate, not extended or scaled (R92). -/
def operandB (b : BitVec 32) : Nat := b.toNat

/-- A byte that normalisation drops (R182). -/
def isWhitespace (b : Byte) : Bool :=
  b == 0x09 || b == 0x0A || b == 0x0B || b == 0x0C || b == 0x0D || b == 0x20

/-- 'a'..'z' to 'A'..'Z', every other byte as it is (R182). -/
def toUpper (b : Byte) : Byte := if 0x61 ≤ b.toNat ∧ b.toNat ≤ 0x7A then b - 0x20 else b

/-- `norm(bytes)` (R182). -/
def norm : List Byte → List Byte
  | [] => []
  | b :: bs => if isWhitespace b then norm bs else toUpper b :: norm bs

/-- TXT[0 .. TXTLEN-1] (R25). -/
def textOf (s : State) : List Byte := s.txt.toList.take s.txtlen.toNat

/-- `field(f) = REC[f][0 .. RLEN[f]-1]` (R220). -/
def fieldOf (s : State) (f : Fin 7) : List Byte := s.recb[f].toList.take s.rlen[f].toNat

/-- A record: seven texts (R11). -/
structure Record where
  zip : List Byte
  plus4 : List Byte
  deliveryPt : List Byte
  barcodeId : List Byte
  serviceType : List Byte
  mailerId : List Byte
  serialNum : List Byte
deriving DecidableEq, Repr

/-- The record's fields by field number (R11, R26). -/
def recordFields (r : Record) : Vector (List Byte) 7 :=
  #v[r.zip, r.plus4, r.deliveryPt, r.barcodeId, r.serviceType, r.mailerId, r.serialNum]

/-- `norm of field(0) .. field(6)` (R221). The registers are not changed. -/
def normalisedRecord (s : State) : Record where
  zip := norm (fieldOf s 0)
  plus4 := norm (fieldOf s 1)
  deliveryPt := norm (fieldOf s 2)
  barcodeId := norm (fieldOf s 3)
  serviceType := norm (fieldOf s 4)
  mailerId := norm (fieldOf s 5)
  serialNum := norm (fieldOf s 6)

/-- `for f = 0..6 with v = fields[f]: REC[f][0 .. len(v)-1] <- v; RLEN[f] <- len(v)` (R227, R254). -/
def writeRecord (r : Record) (s : State) : State :=
  { s with
    recb := Vector.ofFn fun f => writeFront s.recb[f] (recordFields r)[f]
    rlen := Vector.ofFn fun f => BitVec.ofNat 6 (recordFields r)[f].length }

end Sys2Proof.Machine
end

