-- ==== Sys2Proof/Machine/Tables.lean ====
section
/-! DEFINITION. Machine/Tables.lean: the codeword tables (`40_tables.md` R120 to R129) and TBLBUILD. -/

namespace Sys2Proof.Machine

/-- `popcount13(v)` (R8, R121). -/
def popcount13 (v : Char13) : Nat := (List.range 13).countP fun i => v.getLsbD i

/-- Moves the low `k` bits of `v`, lowest first, onto the low end of `acc`. -/
def moveBits : Nat → Nat → Nat → Nat
  | 0, _, acc => acc
  | k + 1, v, acc => moveBits k (v / 2) (2 * acc + v % 2)

/-- `rev13(v)[i] = v[12-i]` (R8, R121). -/
def rev13 (v : Char13) : Char13 := BitVec.ofNat 13 (moveBits 13 v.toNat 0)

/-- `~13 v = v ^ 8191` (R8, R123). -/
def complement13 (v : Char13) : Char13 := v ^^^ 8191

/-- The `bits`-bit values of weight `w` in ascending order: the values that R122's loop over
fwd = 0, 1, ..., 8191 does not skip (Obligations.TableBuildIsTheLoop compares the build with that loop). -/
def valuesOfWeight : Nat → Nat → List Nat
  | 0, 0 => [0]
  | 0, _ + 1 => []
  | bits + 1, 0 => valuesOfWeight bits 0
  | bits + 1, w + 1 =>
    valuesOfWeight bits (w + 1) ++ (valuesOfWeight bits w).map fun v => 2 ^ bits + v

/-- The body of R122's loop, over the values of the class that are left, with `lo` and `hi` the next unused
indices of the two ends. -/
def assignFrom : List Nat → Nat → Nat → List Assignment
  | [], _, _ => []
  | v :: vs, lo, hi =>
    let fwd : Char13 := BitVec.ofNat 13 v
    let rev := rev13 fwd
    if fwd = rev then
      ⟨BitVec.ofNat 11 hi, fwd⟩ :: assignFrom vs lo (hi - 1)
    else if fwd < rev then
      ⟨BitVec.ofNat 11 lo, fwd⟩ :: ⟨BitVec.ofNat 11 (lo + 1), rev⟩ :: assignFrom vs (lo + 2) hi
    else
      assignFrom vs lo hi

/-- `build_class(w, low, high)` (R122). -/
def buildClass (w low high : Nat) : List Assignment := assignFrom (valuesOfWeight 13 w) low high

/-- The whole build (R124). -/
def builtTables : List Assignment := buildClass 5 0 1286 ++ buildClass 2 1287 1364

/-- `ensure_tables()` (R126): the build, if TBLRDY is 0; TBLRDY is then 1. -/
def ensureTables (s : State) : State :=
  { s with tables := if s.tblrdy then s.tables else builtTables, tblrdy := true }

/-- The assignment that wrote DEC[p] and FCT[p] (R123). -/
def assignmentOf (t : List Assignment) (p : Char13) : Option Assignment :=
  t.find? fun a => a.pattern == p || a.pattern == complement13 p

/-- `MemRead(ENC, k)` (R61). An entry no assignment has written reads 0; no rule reads one (R129). -/
def encRead (t : List Assignment) (k : Index) : Char13 :=
  match t.find? fun a => a.index == k with
  | some a => a.pattern
  | none => 0

/-- `MemRead(DEC, p)`: `none` for pop = 0, the index for pop = 1 (R61). -/
def decRead (t : List Assignment) (p : Char13) : Option Index :=
  match assignmentOf t p with
  | some a => some a.index
  | none => none

/-- `MemRead(FCT, p)`: 0 for the pattern, 1 for its complement (R123); 0 where DEC is unpopulated (R127). -/
def fctRead (t : List Assignment) (p : Char13) : Bool :=
  match assignmentOf t p with
  | some a => a.pattern != p
  | none => false

/-- TBLBUILD (R125). -/
def execTblbuild (s : State) : Result := .next (complete (ensureTables s))

end Sys2Proof.Machine
end

