-- ==== Sys2Proof/Machine/Arith.lean ====
section
/-! DEFINITION. Machine/Arith.lean: multi-precision arithmetic (`41_multiprecision.md` R140 to R152) and the MP
commands. The functions work on numbers, not on the register N, so that the other families call them too. -/

namespace Sys2Proof.Machine

/-- `val(num) = sum of num[i] * 2048^(9-i)` (R11, R140). -/
def numVal (num : Number) : Nat := num.toList.foldl (fun v w => v * 2048 + w.toNat) 0

/-- `from(v)[i] = (v >> (11*(9-i)))[10:0]` (R140). -/
def numOf (v : Nat) : Number := Vector.ofFn fun i => BitVec.ofNat 11 (v >>> (11 * (9 - i.val)))

/-- `mp_iszero(num)` (R141): every word is 0. -/
def mpIszero (num : Number) : Bool := num.toList.all fun w => w == 0

/-- The loop of R142 and R144 over words that stand most significant first: from the least significant word up,
`x <- f(word) + carry`, the low 11 bits stay, the rest is carried. -/
def carryWords (f : Word → Nat) : List Word → Nat → List Word × Nat
  | [], c => ([], c)
  | w :: ws, c =>
    let low := carryWords f ws c
    let x := f w + low.2
    (BitVec.ofNat 11 x :: low.1, x / 2048)

theorem length_carryWords (f : Word → Nat) (ws : List Word) (c : Nat) :
    (carryWords f ws c).1.length = ws.length := by
  induction ws with
  | nil => rfl
  | cons w ws ih => simp [carryWords, ih]

/-- `carryWords` on a number. -/
def carryNumber (f : Word → Nat) (num : Number) (c : Nat) : Number × Nat :=
  (vecOfList (carryWords f num.toList c).1 (by simp [length_carryWords]), (carryWords f num.toList c).2)

/-- `mp_add(num, s)` (R142): the new number and the carry out of the most significant word. -/
def mpAdd (num : Number) (s : Nat) : Number × Nat := carryNumber (fun w => w.toNat) num s

/-- `mp_muladd(num, m, a)` (R144). -/
def mpMulAdd (num : Number) (m a : Nat) : Number × Nat := carryNumber (fun w => w.toNat * m) num a

/-- `mp_sub(num, s)` (R143): the new number and the borrow; where the difference is negative, the least multiple
of 2^110 that makes it non-negative is added. -/
def mpSub (num : Number) (s : Nat) : Number × Bool :=
  if s ≤ numVal num then (numOf (numVal num - s), false)
  else (numOf (((numVal num : Int) - (s : Int)) % (2 ^ 110 : Int)).toNat, true)

/-- The loop of R145 over words that stand most significant first, with `r` the running remainder. -/
def divWords (d : Nat) : List Word → Nat → List Word × Nat
  | [], r => ([], r)
  | w :: ws, r =>
    let x := r * 2048 + w.toNat
    let low := divWords d ws (x % d)
    (BitVec.ofNat 11 (x / d) :: low.1, low.2)

theorem length_divWords (d : Nat) (ws : List Word) (r : Nat) : (divWords d ws r).1.length = ws.length := by
  induction ws generalizing r with
  | nil => rfl
  | cons w ws ih => simp [divWords, ih]

/-- `mp_divmod(num, d)` (R145), for d > 0: the quotient and the remainder. -/
def mpDivmod (num : Number) (d : Nat) : Number × Nat :=
  (vecOfList (divWords d num.toList 0).1 (by simp [length_divWords]), (divWords d num.toList 0).2)

/-- Takes `count` digits out of a number by dividing by `d`, least significant digit first, and prepends each to
`acc`: the digit string most significant first (R201's, R226's loops). -/
def takeDigits (d : Nat) : Nat → Number → List Nat → Number × List Nat
  | 0, num, acc => (num, acc)
  | count + 1, num, acc =>
    let qr := mpDivmod num d
    takeDigits d count qr.1 (qr.2 :: acc)

/-- MPCLR (R146). -/
def execMpclr (s : State) : Result := .next (complete { s with num := Vector.replicate 10 0 })

/-- MPISZ (R147). -/
def execMpisz (s : State) : Result := .next (complete (setZ (mpIszero s.num) s))

/-- MPADD b (R148). -/
def execMpadd (b : BitVec 32) (s : State) : Result :=
  let r := mpAdd s.num (operandB b)
  .next (complete (setOvf (carryOvf r.2) { s with num := r.1 }))

/-- MPSUB b (R149). -/
def execMpsub (b : BitVec 32) (s : State) : Result :=
  let r := mpSub s.num (operandB b)
  .next (complete (setOvf r.2 { s with num := r.1 }))

/-- MPMULADD a, b (R150). -/
def execMpmuladd (a : BitVec 20) (b : BitVec 32) (s : State) : Result :=
  let r := mpMulAdd s.num (operandA a) (operandB b)
  .next (complete (setOvf (carryOvf r.2) { s with num := r.1 }))

/-- MPDIVMOD a (R151): OPERAND for a zero divisor, before anything is written. -/
def execMpdivmod (a : BitVec 20) (s : State) : Result :=
  if operandA a = 0 then .next (raise .operand .none s)
  else
    let r := mpDivmod s.num (operandA a)
    .next (complete { s with num := r.1, rem := BitVec.ofNat 20 r.2 })

end Sys2Proof.Machine
end

