-- ==== Sys2Proof/Machine/Fcs.lean ====
section
/-! DEFINITION. Machine/Fcs.lean: the frame check sequence (`42_fcs.md` R170 to R175) and FCSCALC. -/

namespace Sys2Proof.Machine

/-- FCS_POLY, the 12-bit generator (R171; a parameter by D32). -/
def fcsPoly : BitVec 12 := 0xF35

/-- FCS_INIT, the 11-bit starting value (R171; a parameter by D32). -/
def fcsInit : Fcs := 0x1F0

/-- One advance of the state (R172): a left shift, with the generator added in when a 1 leaves bit 10. -/
def fcsAdvance (f : Fcs) : Fcs :=
  let t : BitVec 12 := f.setWidth 12 <<< 1
  (if t.getLsbD 11 then t ^^^ fcsPoly else t).setWidth 11

/-- `repeat k times` the advance. -/
def fcsAdvances : Nat → Fcs → Fcs
  | 0, f => f
  | k + 1, f => fcsAdvances k (fcsAdvance f)

/-- One word of R172's loop. -/
def fcsWord (f : Fcs) (w : Word) : Fcs := fcsAdvances 11 (f ^^^ w)

/-- `calcfcs(num)` (R172): the ten words, most significant first. -/
def calcfcs (num : Number) : Fcs := num.toList.foldl fcsWord fcsInit

/-- FCSCALC (R173). -/
def execFcscalc (s : State) : Result := .next (complete { s with fcs := calcfcs s.num })

end Sys2Proof.Machine
end

