-- ==== Sys2Proof/Machine/Perm.lean ====
section
/-! DEFINITION. Machine/Perm.lean: symbols and text, the permutation tables and the two directions
(`43_permutation.md` R180 to R192); LOADTXT, PERMFWD, PERMINV, FLIPAD. -/

namespace Sys2Proof.Machine

/-- The code of a symbol (R180): code = asc + 2 * desc for T, A, D, F; 4 for the placeholder. -/
def symbolCode : Symbol → BitVec 3
  | .t => 0
  | .a => 1
  | .d => 2
  | .f => 3
  | .x => 4

/-- `asc(s)` (R180). X contributes no bit. -/
def asc : Symbol → Bool
  | .a | .f => true
  | .t | .d | .x => false

/-- `desc(s)` (R180). X contributes no bit. -/
def desc : Symbol → Bool
  | .d | .f => true
  | .t | .a | .x => false

/-- The symbol with the given halves: `sy = a + 2 * d` (R186). -/
def symbolOfHalves (a d : Bool) : Symbol :=
  match a, d with
  | false, false => .t
  | true, false => .a
  | false, true => .d
  | true, true => .f

/-- The ASCII byte of a printed symbol (R180). X has none and never reaches a text; the byte 0x00 stands for it. -/
def symbolByte : Symbol → Byte
  | .t => 0x54
  | .a => 0x41
  | .d => 0x44
  | .f => 0x46
  | .x => 0x00

/-- The symbol of a byte of a normalised text (R183); S is a synonym for T. -/
def byteSymbol (b : Byte) : Option Symbol :=
  if b = 0x54 ∨ b = 0x53 then some .t
  else if b = 0x41 then some .a
  else if b = 0x44 then some .d
  else if b = 0x46 then some .f
  else none

/-- The symbols of a normalised text, or a failure (R183). -/
def symbolsOf : List Byte → Option (List Symbol)
  | [] => some []
  | b :: bs =>
    match byteSymbol b, symbolsOf bs with
    | some s, some ss => some (s :: ss)
    | _, _ => none

/-- `to_symbols(t)` (R183). -/
def toSymbols (t : List Byte) : Option (List Symbol) := symbolsOf (norm t)

/-- A row of the permutation tables (R181): what the descender and the ascender of one bar toggle. -/
structure PermRow where
  descChar : Fin 10
  descBit : Fin 13
  ascChar : Fin 10
  ascBit : Fin 13
deriving DecidableEq, Repr

/-- R181, bars 0 to 12. -/
def permRows0 : List PermRow :=
  [⟨7, 2, 4, 3⟩, ⟨1, 10, 0, 0⟩, ⟨9, 12, 2, 8⟩, ⟨5, 5, 6, 11⟩, ⟨8, 9, 3, 1⟩, ⟨0, 1, 5, 12⟩,
   ⟨2, 5, 1, 8⟩, ⟨4, 4, 9, 11⟩, ⟨6, 3, 8, 10⟩, ⟨3, 9, 7, 6⟩, ⟨5, 11, 1, 4⟩, ⟨8, 5, 2, 12⟩,
   ⟨9, 10, 0, 2⟩]

/-- R181, bars 13 to 25. -/
def permRows1 : List PermRow :=
  [⟨7, 1, 6, 7⟩, ⟨3, 6, 4, 9⟩, ⟨0, 3, 8, 6⟩, ⟨6, 4, 2, 7⟩, ⟨1, 1, 9, 9⟩, ⟨7, 10, 5, 2⟩,
   ⟨4, 0, 3, 8⟩, ⟨6, 2, 0, 4⟩, ⟨8, 11, 1, 0⟩, ⟨9, 8, 3, 12⟩, ⟨2, 6, 7, 7⟩, ⟨5, 1, 4, 10⟩,
   ⟨1, 12, 6, 9⟩]

/-- R181, bars 26 to 38. -/
def permRows2 : List PermRow :=
  [⟨7, 3, 8, 0⟩, ⟨5, 8, 9, 7⟩, ⟨4, 6, 2, 10⟩, ⟨3, 4, 0, 5⟩, ⟨8, 4, 5, 7⟩, ⟨7, 11, 1, 9⟩,
   ⟨6, 0, 9, 6⟩, ⟨0, 6, 4, 8⟩, ⟨2, 1, 3, 2⟩, ⟨5, 9, 8, 12⟩, ⟨4, 11, 6, 1⟩, ⟨9, 5, 7, 4⟩,
   ⟨3, 3, 1, 2⟩]

/-- R181, bars 39 to 51. -/
def permRows3 : List PermRow :=
  [⟨0, 7, 2, 0⟩, ⟨1, 3, 4, 1⟩, ⟨6, 10, 3, 5⟩, ⟨8, 7, 9, 4⟩, ⟨2, 11, 5, 6⟩, ⟨0, 8, 7, 12⟩,
   ⟨4, 2, 8, 1⟩, ⟨5, 10, 3, 0⟩, ⟨9, 3, 0, 9⟩, ⟨6, 5, 2, 4⟩, ⟨7, 8, 1, 7⟩, ⟨5, 0, 4, 5⟩,
   ⟨2, 3, 0, 10⟩]

/-- R181, bars 52 to 64. -/
def permRows4 : List PermRow :=
  [⟨6, 12, 9, 2⟩, ⟨3, 11, 1, 6⟩, ⟨8, 8, 7, 9⟩, ⟨5, 4, 0, 11⟩, ⟨1, 5, 2, 2⟩, ⟨9, 1, 4, 12⟩,
   ⟨8, 3, 6, 6⟩, ⟨7, 0, 3, 7⟩, ⟨4, 7, 7, 5⟩, ⟨0, 12, 1, 11⟩, ⟨2, 9, 9, 0⟩, ⟨6, 8, 5, 3⟩,
   ⟨3, 10, 8, 2⟩]

/-- R181's rows, bar 0 to bar 64. -/
def permRows : List PermRow := permRows0 ++ permRows1 ++ permRows2 ++ permRows3 ++ permRows4

/-- The ROM PERM (R61, R181; a parameter by D32). -/
def permTable : Vector PermRow 65 := vecOfList permRows rfl

/-- `ch[c] <- ch[c] | (1 << b)` (R185). -/
def orBit (ch : Chars) (c : Fin 10) (b : Fin 13) : Chars := ch.set c (ch[c] ||| (1#13 <<< b.val))

/-- One bar of R185's loop. -/
def orBar (sy : Candidate) (ch : Chars) (i : Fin 65) : Chars :=
  let p := permTable[i]
  let up := if asc sy[i] then orBit ch p.ascChar p.ascBit else ch
  if desc sy[i] then orBit up p.descChar p.descBit else up

/-- `syms_to_chars(sy)` (R185). -/
def symsToChars (sy : Candidate) : Chars :=
  (List.finRange 65).foldl (orBar sy) (Vector.replicate 10 0)

/-- `chars_to_syms(ch)` (R186). -/
def charsToSyms (ch : Chars) : Candidate :=
  Vector.ofFn fun i =>
    let p := permTable[i]
    symbolOfHalves (ch[p.ascChar].getLsbD p.ascBit) (ch[p.descChar].getLsbD p.descBit)

/-- `syms_to_text(sy)` (R186). -/
def symsToText (sy : Candidate) : List Byte := sy.toList.map symbolByte

/-- A and D exchanged, the others unchanged (R192). -/
def flipSymbol : Symbol → Symbol
  | .t => .t
  | .a => .d
  | .d => .a
  | .f => .f
  | .x => .x

/-- `flip(sy)` (R192). The bar order is not reversed. -/
def flipCandidate (sy : Candidate) : Candidate := Vector.ofFn fun i => flipSymbol sy[i]

/-- A candidate from a sequence of 65 symbols. -/
def toCandidate (l : List Symbol) : Candidate := vecFrom 65 .t l

/-- `CAND[0..64] <- sy; TXT[0..64] <- syms_to_text(sy); TXTLEN <- 65` (R189, R251). -/
def putSymbols (sy : Candidate) (s : State) : State :=
  { s with cand := sy, txt := writeFront s.txt (symsToText sy), txtlen := 65 }

/-- LOADTXT (R187): the symbol check on the whole text, then the length check. -/
def execLoadtxt (s : State) : Result :=
  match toSymbols (textOf s) with
  | none => .next (raise .formatSymbol .none s)
  | some sy =>
    if sy.length = 65 then .next (complete { s with cand := toCandidate sy })
    else .next (raise .formatLength .none s)

/-- PERMFWD (R188). -/
def execPermfwd (s : State) : Result := .next (complete { s with ch := symsToChars s.cand })

/-- PERMINV (R189). -/
def execPerminv (s : State) : Result := .next (complete (putSymbols (charsToSyms s.ch) s))

/-- FLIPAD (R190). -/
def execFlipad (s : State) : Result := .next (complete { s with cand := flipCandidate s.cand })

end Sys2Proof.Machine
end

