-- ==== Sys2Proof/Machine/Codeword.lean ====
section
/-! DEFINITION. Machine/Codeword.lean: the conversion between the packed number and the ten characters
(`44_codeword.md` R200 to R206); CWENC, CWDEC. -/

namespace Sys2Proof.Machine

/-- The FCS bit that selects the complement of character n (R7, R201; a parameter by D32). -/
def fcsBitOfChar (n : Fin 10) : Nat := n.val

/-- The FCS bit that adds the offset to codeword 0 (R7, R201; a parameter by D32). -/
def fcsOffsetBit : Nat := 10

/-- What `cw_encode` returns (R201). -/
structure CwEncoded where
  cw : Codewords
  fcs : Fcs
  ch : Chars
  rest : Number
deriving DecidableEq, Repr

/-- A pattern, complemented when its FCS bit is set (R201). -/
def polarised (p : Char13) (complemented : Bool) : Char13 := if complemented then complement13 p else p

/-- `cw_encode(num)` (R201): `none` is the refusal of a number outside the codeword space. -/
def cwEncode (t : List Assignment) (num : Number) : Option CwEncoded :=
  let f := calcfcs num
  let last := mpDivmod num Config.divLast
  let mid := takeDigits Config.divMid 8 last.1 []
  let top := numVal mid.1
  if 658 < top then none
  else
    let cw0 := if f.getLsbD fcsOffsetBit then top + Config.cw0Offset else top
    let cw : Codewords := vecFrom 10 0 ((cw0 :: mid.2 ++ [last.2 * 2]).map (BitVec.ofNat 11))
    some
      { cw := cw
        fcs := f
        ch := Vector.ofFn fun n => polarised (encRead t cw[n]) (f.getLsbD (fcsBitOfChar n))
        rest := mid.1 }

/-- The number of characters whose lookup misses (R203, R271). -/
def missCount (t : List Assignment) (ch : Chars) : Nat :=
  ch.toList.countP fun p => (decRead t p).isNone

/-- What `cw_decode` returns (R203). -/
structure CwDecoded where
  cw : Codewords
  fcs : Fcs
  num : Number
deriving DecidableEq, Repr

/-- The raw indices `cw[n] <- MemRead(DEC, ch[n])` (R203), used when every lookup hits. -/
def lookupAll (t : List Assignment) (ch : Chars) : Codewords :=
  Vector.ofFn fun n => (decRead t ch[n]).getD 0

/-- The received FCS: bit n from FCT of character n, bit 10 from the offset of codeword 0 (R33, R203). -/
def receivedFcs (t : List Assignment) (ch : Chars) (high : Bool) : Fcs :=
  (List.finRange 10).foldl
    (fun f n => if fctRead t ch[n] then f ||| (1#11 <<< fcsBitOfChar n) else f)
    (if high then 1#11 <<< fcsOffsetBit else 0)

/-- The number of the ten digits: codeword 0 without its offset, codewords 1..8, codeword 9 halved (R203). -/
def reassemble (cw : Codewords) : Number :=
  let c0 := if 658 < cw[0].toNat then cw[0].toNat - Config.cw0Offset else cw[0].toNat
  let mid := (cw.toList.drop 1).take 8
  let upper := mid.foldl (fun num c => (mpMulAdd num Config.divMid c.toNat).1) (numOf c0)
  (mpMulAdd upper Config.divLast (cw[9].toNat / 2)).1

/-- `cw_decode(ch)` (R203), with the checks in its order; a failure is the reason. The count of misses that
LOOKUP carries is `missCount`. -/
def cwDecode (t : List Assignment) (ch : Chars) : Except Reason CwDecoded :=
  if missCount t ch ≠ 0 then .error .lookup
  else
    let cw := lookupAll t ch
    if Config.cw0Max < cw[0].toNat ∨ Config.cw9Max < cw[9].toNat then .error .range
    else if cw[9].getLsbD 0 then .error .odd
    else
      let f := receivedFcs t ch (658 < cw[0].toNat)
      let num := reassemble cw
      if calcfcs num = f then .ok { cw := cw, fcs := f, num := num } else .error .fcs

/-- CWENC (R202). -/
def execCwenc (s : State) : Result :=
  let s := ensureTables s
  match cwEncode s.tables s.num with
  | none => .next (raise .operand .none s)
  | some r => .next (complete { s with cw := r.cw, fcs := r.fcs, ch := r.ch, num := r.rest })

/-- CWDEC (R204): ERRCNT always; CW, RFCS, FCS and N on success only. -/
def execCwdec (s : State) : Result :=
  let s := ensureTables s
  let s := { s with errcnt := BitVec.ofNat 4 (missCount s.tables s.ch) }
  match cwDecode s.tables s.ch with
  | .error reason => .next (raise .invalid reason s)
  | .ok r => .next (complete { s with cw := r.cw, rfcs := r.fcs, fcs := r.fcs, num := r.num })

end Sys2Proof.Machine
end

