-- ==== Sys2Proof/Machine/Record.lean ====
section
/-! DEFINITION. Machine/Record.lean: record validation, packing and unpacking (`45_record.md` R220 to R229);
PACK, UNPACK. -/

namespace Sys2Proof.Machine

/-- The byte of a decimal digit: `digit(r) = 0x30 + r` (R226). -/
def digitByte (r : Nat) : Byte := BitVec.ofNat 8 (0x30 + r)

/-- The value of a digit byte, `b - '0'` (R220, R224). -/
def digitValue (b : Byte) : Nat := b.toNat - 0x30

/-- The byte is one of '0'..'9' (R220). -/
def isDigit (b : Byte) : Bool := 0x30 ≤ b.toNat && b.toNat ≤ 0x39

/-- `isdigits(s)` (R220); it holds for the empty sequence. -/
def isDigits (s : List Byte) : Bool := s.all isDigit

/-- `isdigits(s, k)` (R220). -/
def isDigitsOf (s : List Byte) (k : Nat) : Bool := isDigits s && s.length == k

/-- `int(s)` (R220). -/
def intOf (s : List Byte) : Nat := s.foldl (fun v b => v * 10 + digitValue b) 0

/-- `validate` on the seven normalised fields (R223): the status of the first step that fails (R222), `none` when
every step passes. -/
def validate (r : Record) : Option Status :=
  if r.zip ≠ [] ∧ ¬ isDigitsOf r.zip 5 then some .vZip
  else if r.plus4 ≠ [] ∧ (r.zip = [] ∨ ¬ isDigitsOf r.plus4 4) then some .vPlus4
  else if r.deliveryPt ≠ [] ∧ (r.zip = [] ∨ r.plus4 = [] ∨ ¬ isDigitsOf r.deliveryPt 2) then some .vDeliveryPt
  else if ¬ isDigitsOf r.barcodeId 2 ∨ 0x34 < (r.barcodeId.getD 1 0).toNat then some .vBarcodeId
  else if ¬ isDigitsOf r.serviceType 3 then some .vServiceType
  else if ¬ (isDigitsOf r.mailerId 6 ∨ isDigitsOf r.mailerId 9) then some .vMailerId
  else if r.serialNum = [] ∨ ¬ isDigits r.serialNum ∨ r.mailerId.length + r.serialNum.length ≠ 15 then
    some .vSerialNum
  else none

/-- The number part of `(num, _) <- mp_muladd(num, m, a)`. -/
def mulAdd (m a : Nat) (num : Number) : Number := (mpMulAdd num m a).1

/-- The accumulated marker (R224): a weight for every routing field present. -/
def markerOf (r : Record) : Nat :=
  (if r.zip = [] then 0 else Config.markZip) + (if r.plus4 = [] then 0 else Config.markPlus4)
    + (if r.deliveryPt = [] then 0 else Config.markDp)

/-- The routing part of `pack` (R224), the marker added. -/
def packRouting (r : Record) : Number :=
  let num := numOf 0
  let num := if r.zip = [] then num else (mpAdd num (intOf r.zip)).1
  let num := if r.plus4 = [] then num else mulAdd 10000 (intOf r.plus4) num
  let num := if r.deliveryPt = [] then num else mulAdd 100 (intOf r.deliveryPt) num
  (mpAdd num (markerOf r)).1

/-- The multiplier sequence for mailer_id and serial_num (R7, R224; a parameter by D32). -/
def packMailer (m n : List Byte) (num : Number) : Number :=
  if m.length = 6 then mulAdd 10000 (intOf n) (mulAdd 100000 0 (mulAdd 1000000 (intOf m) num))
  else mulAdd 1000000 (intOf n) (mulAdd 100000 (intOf m) (mulAdd 10000 0 num))

/-- `pack` on validated fields (R224). -/
def pack (r : Record) : Number :=
  let num := packRouting r
  let num := mulAdd 10 (digitValue (r.barcodeId.getD 0 0x30)) num
  let num := mulAdd 5 (digitValue (r.barcodeId.getD 1 0x30)) num
  let num := mulAdd 1000 (intOf r.serviceType) num
  packMailer r.mailerId r.serialNum num

/-- The routing loop of `unpack` (R226): one block for every size while the number is not 0, a marker unit taken
off before each, its digits prepended to `route`. -/
def unpackRoute : List Nat → Number → List Byte → Number × List Byte
  | [], num, route => (num, route)
  | size :: sizes, num, route =>
    if mpIszero num then (num, route)
    else
      let block := takeDigits 10 size (mpSub num 1).1 []
      unpackRoute sizes block.1 (block.2.map digitByte ++ route)

/-- What `unpack` returns (R226). -/
structure Unpacked where
  record : Record
  residue : Bool
deriving DecidableEq, Repr

/-- The split of the 20 tracking digits and the routing digits into fields (R226): the mailer_id has 9 digits when
digit 5 is '9', else 6. -/
def splitFields (tracking route : List Byte) : Record :=
  let m := if tracking.getD 5 0x30 = 0x39 then 9 else 6
  { zip := route.take 5
    plus4 := (route.drop 5).take 4
    deliveryPt := (route.drop 9).take 2
    barcodeId := tracking.take 2
    serviceType := (tracking.drop 2).take 3
    mailerId := (tracking.drop 5).take m
    serialNum := tracking.drop (5 + m) }

/-- `unpack(num)` (R226). -/
def unpack (num : Number) : Unpacked :=
  let low := takeDigits 10 18 num []
  let second := mpDivmod low.1 5
  let first := mpDivmod second.1 10
  let tracking := (first.2 :: second.2 :: low.2).map digitByte
  let routing := unpackRoute [5, 4, 2] first.1 []
  { record := splitFields tracking routing.2, residue := !mpIszero routing.1 }

/-- PACK (R225). -/
def execPack (s : State) : Result :=
  match validate (normalisedRecord s) with
  | some st => .next (raise st .none s)
  | none => .next (complete { s with num := pack (normalisedRecord s) })

/-- UNPACK (R227). -/
def execUnpack (s : State) : Result :=
  let u := unpack s.num
  if u.residue then .next (raise .invalid .route s)
  else .next (complete { writeRecord u.record s with num := numOf 0 })

end Sys2Proof.Machine
end

