-- ==== Sys2Proof/Machine/Codec.lean ====
section
/-! DEFINITION. Machine/Codec.lean: ENCODE, and the strict decode and the commit that DECODE is made of
(`46_encode_decode.md` R250 to R254). -/

namespace Sys2Proof.Machine

/-- ENCODE (R251). `cw_encode` cannot refuse a validated record's number (R200, R251); the branch that a total
function must still have ends as CWENC's refusal does (R202). -/
def execEncode (s : State) : Result :=
  let s := ensureTables s
  match validate (normalisedRecord s) with
  | some st => .next (raise st .none s)
  | none =>
    let num := pack (normalisedRecord s)
    match cwEncode s.tables num with
    | none => .next (raise .operand .none s)
    | some r =>
      .next (complete (putSymbols (charsToSyms r.ch) { s with num := num, cw := r.cw, fcs := r.fcs, ch := r.ch }))

/-- A result of `strict` (R252). -/
structure Decoded where
  ch : Chars
  cw : Codewords
  fcs : Fcs
  num : Number
  record : Record
deriving DecidableEq, Repr

/-- The strict decode from the characters on (R252): `cw_decode`, then `unpack` without a residue. It succeeds
exactly when R276's `valid` holds. -/
def decodeChars (t : List Assignment) (ch : Chars) : Except Reason Decoded :=
  match cwDecode t ch with
  | .error reason => .error reason
  | .ok r =>
    if (unpack r.num).residue then .error .route
    else .ok { ch := ch, cw := r.cw, fcs := r.fcs, num := r.num, record := (unpack r.num).record }

/-- `strict(sy)` (R252). -/
def strict (t : List Assignment) (sy : Candidate) : Except Reason Decoded := decodeChars t (symsToChars sy)

/-- `commit(c, r)` (R254). -/
def commitDecoded (c : Candidate) (r : Decoded) (s : State) : State :=
  writeRecord r.record
    { s with cand := c, ch := r.ch, cw := r.cw, rfcs := r.fcs, fcs := r.fcs, num := r.num }

/-- What DECODE clears before anything else (R253). -/
def clearDecodeOutputs (s : State) : State :=
  { s with
    rlen := Vector.replicate 7 0
    sug := Vector.replicate 65 0
    hl := Vector.replicate 65 false
    lfk := .none
    lfp := 0
    errcnt := 0
    prod := 0 }

end Sys2Proof.Machine
end

