-- ==== Sys2Proof/Machine/Repair.lean ====
section
/-! DEFINITION. Machine/Repair.lean: the stages of the repair as functions (`47_repair.md` R271 to R276, R278). -/

namespace Sys2Proof.Machine

/-- A length-corrected candidate: `(c, kind, p, e)` (R272). -/
structure Corrected where
  cand : Candidate
  kind : LengthFix
  pos : Nat
  misses : Nat
deriving DecidableEq, Repr

/-- `misses(c)` (R271). -/
def misses (t : List Assignment) (c : Candidate) : Nat := missCount t (symsToChars c)

/-- The 65 insertions of the placeholder into 64 symbols, position 0 first (R272). -/
def insertions (t : List Assignment) (sy : List Symbol) : List Corrected :=
  (List.range 65).map fun p =>
    let c := toCandidate (sy.take p ++ .x :: sy.drop p)
    { cand := c, kind := .insert, pos := p, misses := misses t c }

/-- The 66 deletions from 66 symbols, position 0 first (R272). -/
def deletions (t : List Assignment) (sy : List Symbol) : List Corrected :=
  (List.range 66).map fun p =>
    let c := toCandidate (sy.take p ++ sy.drop (p + 1))
    { cand := c, kind := .delete, pos := p, misses := misses t c }

/-- R272's scan: a variant replaces the kept one when it scores strictly less than `best`. -/
def scanBest : List Corrected → Nat → Option Corrected → Option Corrected
  | [], _, out => out
  | v :: vs, best, out => if v.misses < best then scanBest vs v.misses (some v) else scanBest vs best out

/-- `length_fix(sy)` (R272). -/
def lengthFix (t : List Assignment) (sy : List Symbol) : Option Corrected :=
  if sy.length = 64 then scanBest (insertions t sy) Config.lenCap none
  else if sy.length = 66 then scanBest (deletions t sy) Config.lenCap none
  else none

/-- The candidates of one character (R274): itself when it looks up, else its single-bit flips that do, bit 0
first. -/
def candidatesOf (t : List Assignment) (p : Char13) : List Char13 :=
  if (decRead t p).isSome then [p]
  else ((List.range 13).map fun b => p ^^^ (1#13 <<< b)).filter fun q => (decRead t q).isSome

/-- `cands(ch)` (R274), character 0 first. -/
def candidateLists (t : List Assignment) (ch : Chars) : List (List Char13) := ch.toList.map (candidatesOf t)

/-- `feasible(ch)` (R275): whether the search is made, and the value PROD takes. -/
def feasible (t : List Assignment) (ch : Chars) : Bool × BitVec 11 :=
  let lists := candidateLists t ch
  if lists.any fun l => l.isEmpty then (false, 0)
  else
    let p := (lists.map List.length).prod
    if Config.prodCap < p then (false, 0x7FF) else (true, BitVec.ofNat 11 p)

/-- R276's `search(n, cur)`, over the candidate lists of the characters n..9; a leaf that is valid is appended to
`sols`, with its decode; no more is searched once there are two. -/
def search (t : List Assignment) : List (List Char13) → List Char13 → List Decoded → List Decoded
  | [], cur, sols =>
    if 2 ≤ sols.length then sols
    else
      match decodeChars t (vecFrom 10 0 cur) with
      | .ok r => sols ++ [r]
      | .error _ => sols
  | l :: ls, cur, sols =>
    if 2 ≤ sols.length then sols
    else l.foldl (fun acc v => search t ls (cur ++ [v]) acc) sols

/-- The solutions `search(0, [])` finds: none, one, or two (R276). -/
def solutions (t : List Assignment) (ch : Chars) : List Decoded := search t (candidateLists t ch) [] []

/-- The failure reason of a strict decode (R253's last line). DECODE asks for it only where that decode has failed
(a search that finds nothing has not found the candidate itself); the other branch is no run's. -/
def failureReason {α : Type} : Except Reason α → Reason
  | .error reason => reason
  | .ok _ => .route

/-- BITFIX's reason when the search finds nothing (R277): the failure of `cw_decode(CH)`, or ROUTE when that
succeeds. -/
def bitfixReason (t : List Assignment) (ch : Chars) : Reason :=
  match cwDecode t ch with
  | .error reason => reason
  | .ok _ => .route

end Sys2Proof.Machine
end

