-- ==== Sys2Proof/Machine/Sequencer.lean ====
section
/-! DEFINITION. Machine/Sequencer.lean: the phase machine of the repair (`47_repair.md` R270) and the commands that
pass through it: DECODE (`46_encode_decode.md` R253), LENFIX (R273), BITFIX (R277).

A `Job` is a phase together with the temporaries of the pseudocode that are live in it (R9, R40: they are no
state). `advance` is one transition of R270; each is taken inside the one atomic command, which runs the
transitions until the sequencer is back in IDLE. -/

namespace Sys2Proof.Machine

/-- Where a DECODE, LENFIX or BITFIX command stands. -/
inductive Job where
  /-- DECODE, NORM. -/
  | decodeNorm
  /-- DECODE, STRICT: the 65 symbols. -/
  | decodeStrict (sy : Candidate)
  /-- DECODE, LENSCAN: the 64 or 66 symbols. -/
  | decodeLenscan (sy : List Symbol)
  /-- DECODE, CANDGEN: cand, kind, pos. -/
  | decodeCandgen (c : Corrected)
  /-- DECODE, SEARCH. -/
  | decodeSearch (c : Corrected)
  /-- DECODE, FLIP: whether CANDGEN was infeasible. -/
  | decodeFlip (c : Corrected) (infeasible : Bool)
  /-- DECODE, COMMIT with STATUS 0x00. -/
  | decodeCommit (sy : Candidate) (r : Decoded)
  /-- DECODE, COMMIT with STATUS 0x01. -/
  | repairCommit (c : Corrected) (r : Decoded)
  /-- LENFIX, NORM. -/
  | lenfixNorm
  /-- LENFIX, LENSCAN. -/
  | lenfixScan (sy : List Symbol)
  /-- LENFIX, COMMIT. -/
  | lenfixCommit (c : Corrected)
  /-- BITFIX, CANDGEN. -/
  | bitfixCandgen
  /-- BITFIX, SEARCH. -/
  | bitfixSearch
  /-- BITFIX, COMMIT: the repaired characters. -/
  | bitfixCommit (sol : Chars)
  /-- FAIL: the status and the reason it writes. -/
  | fail (st : Status) (reason : Reason)
  /-- IDLE: the command is over. -/
  | idle
deriving DecidableEq, Repr

/-- The phase a job stands in (R27, R270). -/
def jobPhase : Job → Phase
  | .decodeNorm | .lenfixNorm => .norm
  | .decodeStrict _ => .strict
  | .decodeLenscan _ | .lenfixScan _ => .lenscan
  | .decodeCandgen _ | .bitfixCandgen => .candgen
  | .decodeSearch _ | .bitfixSearch => .search
  | .decodeFlip _ _ => .flip
  | .decodeCommit _ _ | .repairCommit _ _ | .lenfixCommit _ | .bitfixCommit _ => .commit
  | .fail _ _ => .fail
  | .idle => .idle

/-- `SEQ <- phase`, going on with that phase's job. -/
def enter (j : Job) (s : State) : Job × State := (j, setPhase (jobPhase j) s)

/-- NORM of DECODE (R253): the symbol check, then the length. -/
def decodeNorm (s : State) : Job :=
  match toSymbols (textOf s) with
  | none => .fail .formatSymbol .none
  | some sy =>
    if sy.length = 65 then .decodeStrict (toCandidate sy)
    else if sy.length = 64 ∨ sy.length = 66 then .decodeLenscan sy
    else .fail .formatLength .none

/-- STRICT of DECODE (R253): a failure of any reason goes to the repair with the input as the candidate. -/
def decodeStrict (sy : Candidate) (s : State) : Job :=
  match strict s.tables sy with
  | .ok r => .decodeCommit sy r
  | .error _ => .decodeCandgen { cand := sy, kind := .none, pos := 0, misses := misses s.tables sy }

/-- LENSCAN of DECODE (R253). -/
def decodeLenscan (sy : List Symbol) (s : State) : Job :=
  match lengthFix s.tables sy with
  | none => .fail .formatLength .none
  | some c => .decodeCandgen c

/-- The writes of CANDGEN: ERRCNT and PROD (R253, R277). -/
def writeDiagnostics (ch : Chars) (s : State) : State :=
  { s with errcnt := BitVec.ofNat 4 (missCount s.tables ch), prod := (feasible s.tables ch).2 }

/-- CANDGEN of DECODE (R253, R275): an infeasible search goes to the flip. -/
def decodeCandgen (c : Corrected) (s : State) : Job :=
  if (feasible s.tables (symsToChars c.cand)).1 then .decodeSearch c else .decodeFlip c true

/-- SEARCH of DECODE (R253, R276): one solution is committed, two are ambiguous, none goes to the flip. -/
def decodeSearch (c : Corrected) (s : State) : Job :=
  match solutions s.tables (symsToChars c.cand) with
  | [] => .decodeFlip c false
  | [r] => .repairCommit c r
  | _ :: _ :: _ => .fail .ambiguous .none

/-- FLIP of DECODE (R253, R278): the flipped candidate is decoded strictly and its record discarded. -/
def decodeFlip (c : Corrected) (infeasible : Bool) (s : State) : Job :=
  match strict s.tables (flipCandidate c.cand) with
  | .ok _ => .fail .orientation .none
  | .error _ =>
    if infeasible then .fail .unrecoverable .none
    else .fail .invalid (failureReason (strict s.tables c.cand))

/-- The writes of a COMMIT with STATUS 0x01 (R253): the commit, SUG, HL (against the candidate), LFK and LFP. -/
def commitRepaired (c : Corrected) (r : Decoded) (s : State) : State :=
  { commitDecoded c.cand r s with
    sug := Vector.ofFn fun i => symbolByte (charsToSyms r.ch)[i]
    hl := Vector.ofFn fun i => c.cand[i] != (charsToSyms r.ch)[i]
    lfk := c.kind
    lfp := BitVec.ofNat 7 c.pos }

/-- NORM of LENFIX (R273): the symbol check only; `length_fix` itself returns none for a length with nothing to
fix. -/
def lenfixNorm (s : State) : Job :=
  match toSymbols (textOf s) with
  | none => .fail .formatSymbol .none
  | some sy => .lenfixScan sy

/-- LENSCAN of LENFIX (R273). -/
def lenfixScan (sy : List Symbol) (s : State) : Job :=
  match lengthFix s.tables sy with
  | none => .fail .formatLength .none
  | some c => .lenfixCommit c

/-- The writes of LENFIX on success (R273). -/
def commitLength (c : Corrected) (s : State) : State :=
  { s with cand := c.cand, lfk := c.kind, lfp := BitVec.ofNat 7 c.pos, errcnt := BitVec.ofNat 4 c.misses }

/-- CANDGEN of BITFIX (R277). -/
def bitfixCandgen (s : State) : Job :=
  if (feasible s.tables s.ch).1 then .bitfixSearch else .fail .unrecoverable .none

/-- SEARCH of BITFIX (R277). -/
def bitfixSearch (s : State) : Job :=
  match solutions s.tables s.ch with
  | [] => .fail .invalid (bitfixReason s.tables s.ch)
  | [r] => .bitfixCommit r.ch
  | _ :: _ :: _ => .fail .ambiguous .none

/-- One transition of the sequencer (R270). -/
def advance : Job → State → Job × State
  | .decodeNorm, s => enter (decodeNorm s) s
  | .decodeStrict sy, s => enter (decodeStrict sy s) s
  | .decodeLenscan sy, s => enter (decodeLenscan sy s) s
  | .decodeCandgen c, s => enter (decodeCandgen c s) (writeDiagnostics (symsToChars c.cand) s)
  | .decodeSearch c, s => enter (decodeSearch c s) s
  | .decodeFlip c infeasible, s => enter (decodeFlip c infeasible s) s
  | .decodeCommit sy r, s => (.idle, complete (commitDecoded sy r s))
  | .repairCommit c r, s => (.idle, raise .okRepaired .none (commitRepaired c r s))
  | .lenfixNorm, s => enter (lenfixNorm s) s
  | .lenfixScan sy, s => enter (lenfixScan sy s) s
  | .lenfixCommit c, s => (.idle, complete (commitLength c s))
  | .bitfixCandgen, s => enter (bitfixCandgen s) (writeDiagnostics s.ch s)
  | .bitfixSearch, s => enter (bitfixSearch s) s
  | .bitfixCommit sol, s => (.idle, complete { s with ch := sol })
  | .fail st reason, s => (.idle, raise st reason s)
  | .idle, s => (.idle, s)

/-- Up to `k` transitions. -/
def runJob : Nat → Job × State → State
  | 0, js => js.2
  | k + 1, js => runJob k (advance js.1 js.2)

/-- The longest path of R270 from a command's first phase back to IDLE: NORM, STRICT or LENSCAN, CANDGEN, SEARCH,
FLIP, FAIL. -/
def maxTransitions : Nat := 6

/-- DECODE (R253). -/
def execDecode (s : State) : Result :=
  .next (runJob maxTransitions (enter .decodeNorm (clearDecodeOutputs (ensureTables s))))

/-- LENFIX (R273). -/
def execLenfix (s : State) : Result := .next (runJob maxTransitions (enter .lenfixNorm (ensureTables s)))

/-- BITFIX (R277). -/
def execBitfix (s : State) : Result := .next (runJob maxTransitions (enter .bitfixCandgen (ensureTables s)))

end Sys2Proof.Machine
end

