-- ==== Sys2Proof/Machine/RegMap.lean ====
section
/-! DEFINITION. Machine/RegMap.lean: the host register space (`20_memory.md` R63 to R70): the map, a register read
and a register write. -/

namespace Sys2Proof.Machine

/-- A mapped register, a row of R64's table with its element number. -/
inductive Reg where
  | status | reason | flags | rem | fcs | rfcs | errcnt | prod | lenfix | seq | txtlen
  | num (i : Fin 10)
  | ch (n : Fin 10)
  | cw (n : Fin 10)
  | rlen (f : Fin 7)
  | hl (k : Fin 3)
  | txt (i : Fin 128)
  | cand (i : Fin 65)
  | sug (i : Fin 65)
  | recb (f : Fin 7) (i : Fin 32)
  | perm (i : Fin 65)
  | enc (k : Fin 1365)
  | dec (p : Fin 8192)
deriving DecidableEq, Repr

/-- The address of a register (R64, column address). -/
def regAddress : Reg → Nat
  | .status => 0x0000
  | .reason => 0x0001
  | .flags => 0x0002
  | .rem => 0x0003
  | .fcs => 0x0004
  | .rfcs => 0x0005
  | .errcnt => 0x0006
  | .prod => 0x0007
  | .lenfix => 0x0008
  | .seq => 0x0009
  | .txtlen => 0x000A
  | .num i => 0x0010 + i
  | .ch n => 0x0020 + n
  | .cw n => 0x0030 + n
  | .rlen f => 0x0040 + f
  | .hl k => 0x0050 + k
  | .txt i => 0x0100 + i
  | .cand i => 0x0180 + i
  | .sug i => 0x0200 + i
  | .recb f i => 0x0300 + 32 * f + i
  | .perm i => 0x0400 + i
  | .enc k => 0x1000 + k
  | .dec p => 0x2000 + p

/-- Element `a - base` of a register file of `n` registers that starts at `base`. -/
def element (n base a : Nat) : Option (Fin n) :=
  if h : base ≤ a ∧ a - base < n then some ⟨a - base, h.2⟩ else none

/-- The registers below 0x0010 (R64). -/
def scalarAt (a : Nat) : Option Reg :=
  match a with
  | 0x0000 => some .status
  | 0x0001 => some .reason
  | 0x0002 => some .flags
  | 0x0003 => some .rem
  | 0x0004 => some .fcs
  | 0x0005 => some .rfcs
  | 0x0006 => some .errcnt
  | 0x0007 => some .prod
  | 0x0008 => some .lenfix
  | 0x0009 => some .seq
  | 0x000A => some .txtlen
  | _ => none

/-- The byte of the record buffers at 0x0300 + 32*f + i (R64). -/
def recordByteAt (a : Nat) : Option Reg :=
  match element 7 0 ((a - 0x0300) / 32), element 32 0 ((a - 0x0300) % 32) with
  | some f, some i => if 0x0300 ≤ a then some (.recb f i) else none
  | _, _ => none

/-- The register at an address (R64); `none` is an unmapped address. -/
def regAt (addr : RegAddr) : Option Reg :=
  let a := addr.toNat
  if a < 0x0010 then scalarAt a
  else if a < 0x0020 then (element 10 0x0010 a).map .num
  else if a < 0x0030 then (element 10 0x0020 a).map .ch
  else if a < 0x0040 then (element 10 0x0030 a).map .cw
  else if a < 0x0050 then (element 7 0x0040 a).map .rlen
  else if a < 0x0100 then (element 3 0x0050 a).map .hl
  else if a < 0x0180 then (element 128 0x0100 a).map .txt
  else if a < 0x0200 then (element 65 0x0180 a).map .cand
  else if a < 0x0300 then (element 65 0x0200 a).map .sug
  else if a < 0x0400 then recordByteAt a
  else if a < 0x1000 then (element 65 0x0400 a).map .perm
  else if a < 0x2000 then (element 1365 0x1000 a).map .enc
  else (element 8192 0x2000 a).map .dec

/-- LENFIX: LFK in [1:0], LFP in [14:8], the other bits 0 (R36). -/
def lenfixWord (s : State) : BitVec 15 := s.lfp ++ (0#6 ++ lengthFixCode s.lfk)

/-- The word 0x0050 + k: bit j is HL[32*k + j] (R64); bits past HL[64] are 0. -/
def hlWord (s : State) (k : Fin 3) : RegData :=
  (List.range 32).foldl
    (fun w j => if s.hl.toList.getD (32 * k.val + j) false then w ||| (1#32 <<< j) else w) 0

/-- The PERM word (R64): [3:0] asc char, [7:4] asc bit, [11:8] desc char, [15:12] desc bit. -/
def permWord (p : PermRow) : BitVec 16 :=
  (BitVec.ofNat 4 p.descBit ++ BitVec.ofNat 4 p.descChar) ++ (BitVec.ofNat 4 p.ascBit ++ BitVec.ofNat 4 p.ascChar)

/-- The DEC and FCT word (R64): [10:0] idx, [11] FCT, [15] pop; all 0 when pop = 0. -/
def decWord (t : List Assignment) (p : Char13) : BitVec 16 :=
  match decRead t p with
  | some idx => (1#1 ++ 0#3) ++ (BitVec.ofBool (fctRead t p) ++ idx)
  | none => 0

/-- The value a register reads as, zero-extended (R63, R66). -/
def regValue (s : State) : Reg → RegData
  | .status => (statusCode s.status).setWidth 32
  | .reason => (reasonCode s.reason).setWidth 32
  | .flags => (flagsWord s).setWidth 32
  | .rem => s.rem.setWidth 32
  | .fcs => s.fcs.setWidth 32
  | .rfcs => s.rfcs.setWidth 32
  | .errcnt => s.errcnt.setWidth 32
  | .prod => s.prod.setWidth 32
  | .lenfix => (lenfixWord s).setWidth 32
  | .seq => (phaseCode s.seq).setWidth 32
  | .txtlen => s.txtlen.setWidth 32
  | .num i => s.num[i].setWidth 32
  | .ch n => s.ch[n].setWidth 32
  | .cw n => s.cw[n].setWidth 32
  | .rlen f => s.rlen[f].setWidth 32
  | .hl k => hlWord s k
  | .txt i => s.txt[i].setWidth 32
  | .cand i => (symbolCode s.cand[i]).setWidth 32
  | .sug i => s.sug[i].setWidth 32
  | .recb f i => s.recb[f][i].setWidth 32
  | .perm i => (permWord permTable[i]).setWidth 32
  | .enc k => (encRead s.tables (BitVec.ofNat 11 k)).setWidth 32
  | .dec p => (decWord s.tables (BitVec.ofNat 13 p)).setWidth 32

/-- The register lies in one of the table spaces, so a read of it performs the build first (R66). -/
def readsTables : Reg → Bool
  | .enc _ | .dec _ => true
  | .status | .reason | .flags | .rem | .fcs | .rfcs | .errcnt | .prod | .lenfix | .seq | .txtlen
  | .num _ | .ch _ | .cw _ | .rlen _ | .hl _ | .txt _ | .cand _ | .sug _ | .recb _ _ | .perm _ => false

/-- What a register write does (R66, R67): the low bits of the datum, an illegal length ignored, a read-only
register unchanged. -/
def storeReg (d : RegData) (s : State) : Reg → State
  | .txtlen => if (d.setWidth 8).toNat ≤ Config.txtCap then { s with txtlen := d.setWidth 8 } else s
  | .num i => { s with num := s.num.set i (d.setWidth 11) }
  | .ch n => { s with ch := s.ch.set n (d.setWidth 13) }
  | .rlen f =>
    if (d.setWidth 6).toNat ≤ Config.fieldCap then { s with rlen := s.rlen.set f (d.setWidth 6) } else s
  | .txt i => { s with txt := s.txt.set i (d.setWidth 8) }
  | .recb f i => { s with recb := s.recb.set f (s.recb[f].set i (d.setWidth 8)) }
  | .status | .reason | .flags | .rem | .fcs | .rfcs | .errcnt | .prod | .lenfix | .seq
  | .cw _ | .hl _ | .cand _ | .sug _ | .perm _ | .enc _ | .dec _ => s

/-- A register read (R66, R67): the build first where the address is a table's, then the datum; 0 for an unmapped
address. -/
def hostRead (addr : RegAddr) (s : State) : Result :=
  match regAt addr with
  | none => .next (answer 0 s)
  | some r =>
    let s := if readsTables r then ensureTables s else s
    .next (answer (regValue s r) s)

/-- A register write (R66, R67): ignored at an unmapped address. -/
def hostWrite (addr : RegAddr) (d : RegData) (s : State) : Result :=
  match regAt addr with
  | none => .next s
  | some r => .next (storeReg d s r)

/-- The block with nothing presented to it: idle, waiting for the first host action (R340). -/
def waitIdle (s : State) : Result := .next s

end Sys2Proof.Machine
end

