-- ==== Sys2Proof/Machine/Dispatch.lean ====
section
/-! DEFINITION. Machine/Dispatch.lean: the meaning of each command, one arm per constructor. -/

namespace Sys2Proof.Machine

def exec (i : Instr) (s : State) : Host.Outcome State Fault Refusal :=
  match i with
  | .tblbuild => Sys2Proof.Machine.execTblbuild s
  | .mpclr => Sys2Proof.Machine.execMpclr s
  | .mpisz => Sys2Proof.Machine.execMpisz s
  | .mpadd b => Sys2Proof.Machine.execMpadd b s
  | .mpsub b => Sys2Proof.Machine.execMpsub b s
  | .mpmuladd a b => Sys2Proof.Machine.execMpmuladd a b s
  | .mpdivmod a => Sys2Proof.Machine.execMpdivmod a s
  | .fcscalc => Sys2Proof.Machine.execFcscalc s
  | .loadtxt => Sys2Proof.Machine.execLoadtxt s
  | .permfwd => Sys2Proof.Machine.execPermfwd s
  | .perminv => Sys2Proof.Machine.execPerminv s
  | .flipad => Sys2Proof.Machine.execFlipad s
  | .cwenc => Sys2Proof.Machine.execCwenc s
  | .cwdec => Sys2Proof.Machine.execCwdec s
  | .pack => Sys2Proof.Machine.execPack s
  | .unpack => Sys2Proof.Machine.execUnpack s
  | .encode => Sys2Proof.Machine.execEncode s
  | .decode => Sys2Proof.Machine.execDecode s
  | .lenfix => Sys2Proof.Machine.execLenfix s
  | .bitfix => Sys2Proof.Machine.execBitfix s

end Sys2Proof.Machine
end

