-- ==== Sys2Proof/Machine/Step.lean ====
section
/-! DEFINITION. Machine/Step.lean: one step of the machine is one host action, or a reset (`00_scope.md` R10,
`70_reset_and_hazards.md` R341). -/

namespace Sys2Proof.Machine

/-- What the block does with the word at the command port: a legal word runs its command, any other word does what
R303 says (R93, R96). -/
def runWord (w : CmdWord) (s : State) : Result :=
  match decodeWord w with
  | .ok i => exec i s
  | .error _ => .next (illegalCommand s)

/-- What the block does with what the outside presents (R10, R341). -/
def perform : Input → State → Result
  | .command w, s => runWord w s
  | .read addr, s => hostRead addr s
  | .write addr d, s => hostWrite addr d s
  | .reset, s => .next (resetBlock s)

/-- One step: the next thing presented is taken and performed; with nothing presented the block waits. -/
def step (s : State) : Result :=
  match takeInput s with
  | none => waitIdle s
  | some (i, s') => perform i s'

/-- The state in which the host presents the word `w` of `nbits` bits next: the command port is where the block
takes its next command from (R90). -/
def State.withFetchWord (s : State) (nbits w : Nat) : State :=
  { s with host := { s.host with pending := .command (BitVec.ofNat 64 (w % 2 ^ nbits)) :: s.host.pending } }

end Sys2Proof.Machine
end

