-- ==== Sys2Proof/Safety.lean ====
section
/-! DEFINITION. Safety.lean: what the machine's states and runs keep, in the terms the statements use. -/

namespace Sys2Proof.Machine

/-- The table spaces agree with TBLRDY (R39, R126): nothing is assigned before the build; after it the spaces are
what R124's build assigns, for good. -/
def State.TablesOk (s : State) : Prop :=
  (s.tblrdy = false → s.tables = []) ∧ (s.tblrdy = true → s.tables = builtTables)

/-- A command that ended in success (R29). -/
def Status.Success (st : Status) : Prop := st = .ok ∨ st = .okRepaired

/-- R23's relation between CW, FCS and CH: `MemRead(ENC, CW[n]) ^ (8191 if FCS[n] else 0) = CH[n]`. -/
def State.CodewordsMatch (s : State) : Prop :=
  ∀ n : Fin 10, encRead s.tables s.cw[n] ^^^ (if s.fcs.getLsbD n then 8191 else 0) = s.ch[n]

/-- The bytes a suggestion may hold: 0x00, 'A', 'D', 'F', 'T' (R37). -/
def suggestionBytes : List Byte := [0x00, 0x41, 0x44, 0x46, 0x54]

/-- The legal states: what `10_state.md` says of the registers between two host actions. -/
structure State.Inv (s : State) : Prop where
  /-- SEQ is IDLE whenever the host can read it (R27). -/
  seqIdle : s.seq = .idle
  /-- TXTLEN is 0..128 (R25). -/
  txtlen : s.txtlen.toNat ≤ Config.txtCap
  /-- RLEN[f] is 0..32 (R26). -/
  rlen : ∀ f : Fin 7, s.rlen[f].toNat ≤ Config.fieldCap
  /-- CW[n] is 0..1364 (R23). -/
  cw : ∀ n : Fin 10, s.cw[n].toNat ≤ 1364
  /-- ERRCNT is 0..10 (R34). -/
  errcnt : s.errcnt.toNat ≤ 10
  /-- PROD is 0..1000 or 0x7FF (R35). -/
  prod : s.prod.toNat ≤ Config.prodCap ∨ s.prod = 0x7FF
  /-- LFP is 0 without a correction, 0..64 for an insertion, 0..65 for a deletion (R36, R272). -/
  lfp : (s.lfk = .none → s.lfp = 0) ∧ (s.lfk = .insert → s.lfp.toNat ≤ 64) ∧ (s.lfk = .delete → s.lfp.toNat ≤ 65)
  /-- SUG holds printed symbols or 0x00 (R37). -/
  sug : ∀ i : Fin 65, s.sug[i] ∈ suggestionBytes
  /-- INVALID carries a reason (R30, R300). -/
  invalidReason : s.status = .invalid → s.reason ≠ .none
  /-- A reason stands only with INVALID, or was left by it under an illegal command (R30, R303). -/
  reasonOnly : s.reason ≠ .none → s.status = .invalid ∨ s.status = .illegalCmd
  /-- The tables agree with TBLRDY (R39). -/
  tables : s.TablesOk

/-- The machine goes on from `s` for `k` steps: no fault and no refusal (R352: no command can hang). -/
def SafeFor (k : Nat) (s : Sys2Proof.core.State) : Prop := ∃ t, Sys2Proof.core.run k s = .next t

end Sys2Proof.Machine
end

