-- ==== Sys2Proof/Certificates/Slice0/Obligations.lean ====
section
/-! DEFINITION. Certificates/Slice0/Obligations.lean: the statements for the provers. Every statement about what a
command does has the whole next state as its conclusion, written as an update of the state before: what the update
does not name is unchanged (its frame). `ended` and `built` below are written here from R301 and R126, not taken
from the model's own operations. -/

namespace Sys2Proof.Claims

open Sys2Proof.Machine

/-- The end of a command (R301; R30: REASON is 0 unless one is given; R27: SEQ is back at IDLE). -/
def ended (st : Status) (r : Reason) (s : State) : State := { s with status := st, reason := r, seq := .idle }

/-- The state with the tables built (R126). -/
def built (s : State) : State := { s with tables := builtTables, tblrdy := true }

/-- The commands that perform the build (R126). -/
def buildsTables : Instr → Bool
  | .tblbuild | .cwenc | .cwdec | .encode | .decode | .lenfix | .bitfix => true
  | .mpclr | .mpisz | .mpadd _ | .mpsub _ | .mpmuladd _ _ | .mpdivmod _ | .fcscalc | .loadtxt | .permfwd
  | .perminv | .flipad | .pack | .unpack => false

/-- R122's loop, as it is written: every value is visited and the ones of another weight are skipped. -/
def loopClass (w : Nat) : List Nat → Nat → Nat → List Assignment
  | [], _, _ => []
  | v :: vs, lo, hi =>
    let fwd : Char13 := BitVec.ofNat 13 v
    if popcount13 fwd ≠ w then loopClass w vs lo hi
    else if fwd = rev13 fwd then ⟨BitVec.ofNat 11 hi, fwd⟩ :: loopClass w vs lo (hi - 1)
    else if fwd < rev13 fwd then
      ⟨BitVec.ofNat 11 lo, fwd⟩ :: ⟨BitVec.ofNat 11 (lo + 1), rev13 fwd⟩ :: loopClass w vs (lo + 2) hi
    else loopClass w vs lo hi

/-- One bit of R172's bit-serial form. -/
def fcsBit (f : Fcs) (b : Bool) : Fcs := if f.getLsbD 10 != b then (f <<< 1) ^^^ 0x735 else f <<< 1

/-- R172's bit-serial form: the 110 bits of the number, most significant first, from FCS_INIT. -/
def fcsSerial (v : Nat) : Fcs := ((List.range 110).map fun i => v.testBit (109 - i)).foldl fcsBit 0x1F0

/-- The size of the codeword space (R200). -/
def codewordSpace : Nat := 659 * 636 * 1365 ^ 8

/-- Exactly `k` decimal digits (R220). -/
abbrev Digits (k : Nat) (l : List Byte) : Prop := l.length = k ∧ ∀ b ∈ l, 0x30 ≤ b.toNat ∧ b.toNat ≤ 0x39

/-- R223's seven steps: what each step fails on, and its status. -/
def validationSteps (r : Record) : List (Bool × Status) :=
  [(decide (r.zip ≠ [] ∧ ¬ Digits 5 r.zip), .vZip),
   (decide (r.plus4 ≠ [] ∧ (r.zip = [] ∨ ¬ Digits 4 r.plus4)), .vPlus4),
   (decide (r.deliveryPt ≠ [] ∧ (r.zip = [] ∨ r.plus4 = [] ∨ ¬ Digits 2 r.deliveryPt)), .vDeliveryPt),
   (decide (¬ Digits 2 r.barcodeId ∨ ¬ (∀ b ∈ r.barcodeId.drop 1, b.toNat ≤ 0x34)), .vBarcodeId),
   (decide (¬ Digits 3 r.serviceType), .vServiceType),
   (decide (¬ Digits 6 r.mailerId ∧ ¬ Digits 9 r.mailerId), .vMailerId),
   (decide (r.serialNum = [] ∨ ¬ Digits r.serialNum.length r.serialNum
      ∨ r.mailerId.length + r.serialNum.length ≠ 15), .vSerialNum)]

/-- The routing value R of R228's table. -/
def routingValue (r : Record) : Nat :=
  if r.zip = [] then 0
  else if r.plus4 = [] then intOf r.zip + 1
  else if r.deliveryPt = [] then intOf r.zip * 10000 + intOf r.plus4 + 100001
  else (intOf r.zip * 10000 + intOf r.plus4) * 100 + intOf r.deliveryPt + 1000100001

/-- The packed value (R228). -/
def packValue (r : Record) : Nat :=
  ((routingValue r * 10 + intOf (r.barcodeId.take 1)) * 5 + intOf (r.barcodeId.drop 1)) * 10 ^ 18
    + intOf r.serviceType * 10 ^ 15 + intOf (r.mailerId ++ r.serialNum)

/-- The mailer_id has nine digits exactly when its first digit is the sentinel 9 (R226's split). -/
def SentinelSplit (r : Record) : Prop := r.mailerId.length = 9 ↔ r.mailerId.head? = some 0x39

/-- The record with its 15 mailer and serial digits split as R226's sentinel splits them: after nine digits when the
first is 9, else after six. -/
def splitBySentinel (r : Record) : Record :=
  let d := r.mailerId ++ r.serialNum
  let m := if d.head? = some 0x39 then 9 else 6
  { r with mailerId := d.take m, serialNum := d.drop m }

/-- All ways to choose one element of each list, in the order of a depth-first search. -/
def choices {α : Type} : List (List α) → List (List α)
  | [] => [[]]
  | l :: ls => l.flatMap fun v => (choices ls).map fun c => v :: c

/-- R276's `valid(cur)`. -/
def valid (t : List Assignment) (ch : Chars) : Bool :=
  match cwDecode t ch with
  | .ok d => !(unpack d.num).residue
  | .error _ => false

/-- The valid combinations of the candidates (R274, R276). -/
def validChoices (t : List Assignment) (ch : Chars) : List Chars :=
  ((choices (candidateLists t ch)).map (vecFrom 10 0)).filter (valid t)

/-- R275's product of the candidate counts. -/
def candidateProduct (t : List Assignment) (ch : Chars) : Nat := ((candidateLists t ch).map List.length).prod

/-- The value PROD takes (R275). -/
def prodValue (t : List Assignment) (ch : Chars) : BitVec 11 :=
  if candidateProduct t ch = 0 then 0
  else if 1000 < candidateProduct t ch then 0x7FF
  else BitVec.ofNat 11 (candidateProduct t ch)

/-- Stage (b) is feasible (R275). -/
abbrev Feasible (t : List Assignment) (ch : Chars) : Prop :=
  candidateProduct t ch ≠ 0 ∧ candidateProduct t ch ≤ 1000

/-- The commit of R254. -/
def committed (c : Candidate) (r : Decoded) (s : State) : State :=
  writeRecord r.record
    { s with cand := c, ch := r.ch, cw := r.cw, rfcs := r.fcs, fcs := r.fcs, num := r.num }

/-- R253 from `SEQ <- CANDGEN` on, on a state whose outputs are cleared. -/
def repairReference (cand : Candidate) (kind : LengthFix) (pos : Nat) (s : State) : State :=
  let ch0 := symsToChars cand
  let s1 := { s with
    errcnt := BitVec.ofNat 4 (missCount builtTables ch0)
    prod := prodValue builtTables ch0 }
  let lastResort :=
    match strict builtTables (flipCandidate cand), strict builtTables cand with
    | .ok _, _ => ended .orientation .none s1
    | .error _, .error reason =>
      if Feasible builtTables ch0 then ended .invalid reason s1 else ended .unrecoverable .none s1
    | .error _, .ok _ => s1
  if Feasible builtTables ch0 then
    match validChoices builtTables ch0 with
    | [] => lastResort
    | [sol] =>
      match strict builtTables (charsToSyms sol) with
      | .ok r =>
        ended .okRepaired .none
          { committed cand r s1 with
            ch := sol
            sug := Vector.ofFn fun i => symbolByte (charsToSyms sol)[i]
            hl := Vector.ofFn fun i => decide (cand[i] ≠ (charsToSyms sol)[i])
            lfk := kind
            lfp := BitVec.ofNat 7 pos }
      | .error _ => s1
    | _ :: _ :: _ => ended .ambiguous .none s1
  else lastResort

/-- R253's pseudocode as one expression, without the phases and with the search replaced by R276's count of the
valid combinations. Its two branches that return a state without ending the command are the ones R253 says do not
arise. -/
def decodeReference (s : State) : State :=
  let s0 := { built s with
    rlen := Vector.replicate 7 0
    sug := Vector.replicate 65 0
    hl := Vector.replicate 65 false
    lfk := .none
    lfp := 0
    errcnt := 0
    prod := 0 }
  match toSymbols (textOf s) with
  | none => ended .formatSymbol .none s0
  | some sy =>
    if sy.length = 65 then
      match strict builtTables (toCandidate sy) with
      | .ok r => ended .ok .none (committed (toCandidate sy) r s0)
      | .error _ => repairReference (toCandidate sy) .none 0 s0
    else if sy.length = 64 ∨ sy.length = 66 then
      match lengthFix builtTables sy with
      | none => ended .formatLength .none s0
      | some c => repairReference c.cand c.kind c.pos s0
    else ended .formatLength .none s0

/-- R277's pseudocode as one expression. -/
def bitfixReference (s : State) : State :=
  let s1 := { built s with
    errcnt := BitVec.ofNat 4 (missCount builtTables s.ch)
    prod := prodValue builtTables s.ch }
  if Feasible builtTables s.ch then
    match validChoices builtTables s.ch with
    | [] =>
      match cwDecode builtTables s.ch with
      | .error reason => ended .invalid reason s1
      | .ok _ => ended .invalid .route s1
    | [sol] => ended .ok .none { s1 with ch := sol }
    | _ :: _ :: _ => ended .ambiguous .none s1
  else ended .unrecoverable .none s1

/-- How many variants R272 tries. -/
def variantCount (sy : List Symbol) : Nat := if sy.length = 64 then 65 else if sy.length = 66 then 66 else 0

/-- R272's variant at position p. -/
def variantAt (sy : List Symbol) (p : Nat) : List Symbol :=
  if sy.length = 64 then sy.take p ++ .x :: sy.drop p else sy.take p ++ sy.drop (p + 1)

/-- R272's kind. -/
def variantKind (sy : List Symbol) : LengthFix := if sy.length = 64 then .insert else .delete

/-- R270's table: the transitions DECODE makes. -/
def decodeTransition : Phase → Phase → Bool
  | .norm, .fail | .norm, .strict | .norm, .lenscan => true
  | .strict, .commit | .strict, .candgen => true
  | .lenscan, .candgen | .lenscan, .fail => true
  | .candgen, .search | .candgen, .flip => true
  | .search, .commit | .search, .fail | .search, .flip => true
  | .flip, .fail => true
  | .commit, .idle | .fail, .idle => true
  | _, _ => false

/-- R270: LENFIX passes through NORM, LENSCAN and COMMIT or FAIL. -/
def lenfixTransition : Phase → Phase → Bool
  | .norm, .fail | .norm, .lenscan => true
  | .lenscan, .commit | .lenscan, .fail => true
  | .commit, .idle | .fail, .idle => true
  | _, _ => false

/-- R270: BITFIX passes through CANDGEN, SEARCH and COMMIT or FAIL. -/
def bitfixTransition : Phase → Phase → Bool
  | .candgen, .search | .candgen, .fail => true
  | .search, .commit | .search, .fail => true
  | .commit, .idle | .fail, .idle => true
  | _, _ => false

/-- The jobs of a DECODE. -/
def decodeJob : Job → Bool
  | .decodeNorm | .decodeStrict _ | .decodeLenscan _ | .decodeCandgen _ | .decodeSearch _ | .decodeFlip _ _
  | .decodeCommit _ _ | .repairCommit _ _ | .fail _ _ | .idle => true
  | .lenfixNorm | .lenfixScan _ | .lenfixCommit _ | .bitfixCandgen | .bitfixSearch | .bitfixCommit _ => false

/-- The jobs of a LENFIX. -/
def lenfixJob : Job → Bool
  | .lenfixNorm | .lenfixScan _ | .lenfixCommit _ | .fail _ _ | .idle => true
  | .decodeNorm | .decodeStrict _ | .decodeLenscan _ | .decodeCandgen _ | .decodeSearch _ | .decodeFlip _ _
  | .decodeCommit _ _ | .repairCommit _ _ | .bitfixCandgen | .bitfixSearch | .bitfixCommit _ => false

/-- The jobs of a BITFIX. -/
def bitfixJob : Job → Bool
  | .bitfixCandgen | .bitfixSearch | .bitfixCommit _ | .fail _ _ | .idle => true
  | .decodeNorm | .decodeStrict _ | .decodeLenscan _ | .decodeCandgen _ | .decodeSearch _ | .decodeFlip _ _
  | .decodeCommit _ _ | .repairCommit _ _ | .lenfixNorm | .lenfixScan _ | .lenfixCommit _ => false

/-- One transition from any job of a command but IDLE: its phases are in the command's relation, SEQ holds the phase
entered, and the next job is the same command's. -/
def KeepsTo (jobs : Job → Bool) (transition : Phase → Phase → Bool) : Prop :=
  ∀ (j : Job) (s : State), jobs j = true → j ≠ .idle →
    transition (jobPhase j) (jobPhase (advance j s).1) = true
    ∧ (advance j s).2.seq = jobPhase (advance j s).1
    ∧ jobs (advance j s).1 = true

/-- What a command can raise (R302). -/
def mayRaise : Instr → List (Status × List Reason)
  | .tblbuild | .mpclr | .mpisz | .mpadd _ | .mpsub _ | .mpmuladd _ _ | .fcscalc | .permfwd | .perminv
  | .flipad => []
  | .mpdivmod _ | .cwenc => [(.operand, [.none])]
  | .loadtxt | .lenfix => [(.formatSymbol, [.none]), (.formatLength, [.none])]
  | .cwdec => [(.invalid, [.lookup, .range, .odd, .fcs])]
  | .pack | .encode =>
    [(.vZip, [.none]), (.vPlus4, [.none]), (.vDeliveryPt, [.none]), (.vBarcodeId, [.none]),
     (.vServiceType, [.none]), (.vMailerId, [.none]), (.vSerialNum, [.none])]
  | .unpack => [(.invalid, [.route])]
  | .decode =>
    [(.formatSymbol, [.none]), (.formatLength, [.none]), (.unrecoverable, [.none]),
     (.invalid, [.lookup, .range, .odd, .fcs, .route]), (.ambiguous, [.none]), (.orientation, [.none])]
  | .bitfix =>
    [(.unrecoverable, [.none]), (.invalid, [.lookup, .range, .odd, .fcs, .route]), (.ambiguous, [.none])]

/-- `s` with what R302 says command `i` writes on a raise taken from `t`. -/
def raiseFrame (i : Instr) (s t : State) : State :=
  let u := { s with status := t.status, reason := t.reason, seq := t.seq }
  match i with
  | .cwenc | .encode | .lenfix => { u with tables := t.tables, tblrdy := t.tblrdy }
  | .cwdec => { u with tables := t.tables, tblrdy := t.tblrdy, errcnt := t.errcnt }
  | .bitfix => { u with tables := t.tables, tblrdy := t.tblrdy, errcnt := t.errcnt, prod := t.prod }
  | .decode =>
    { u with
      tables := t.tables
      tblrdy := t.tblrdy
      rlen := Vector.replicate 7 0
      sug := Vector.replicate 65 0
      hl := Vector.replicate 65 false
      lfk := .none
      lfp := 0
      errcnt := t.errcnt
      prod := t.prod }
  | .tblbuild | .mpclr | .mpisz | .mpadd _ | .mpsub _ | .mpmuladd _ _ | .mpdivmod _ | .fcscalc | .loadtxt
  | .permfwd | .perminv | .flipad | .pack | .unpack => u

/-- What a read of an RW register returns after a write of `d` to it (R63, R66, R67). -/
def storedValue (d : RegData) (s : State) : Reg → RegData
  | .txtlen => if d.toNat % 2 ^ 8 ≤ 128 then BitVec.ofNat 32 (d.toNat % 2 ^ 8) else regValue s .txtlen
  | .num _ => BitVec.ofNat 32 (d.toNat % 2 ^ 11)
  | .ch _ => BitVec.ofNat 32 (d.toNat % 2 ^ 13)
  | .rlen f => if d.toNat % 2 ^ 6 ≤ 32 then BitVec.ofNat 32 (d.toNat % 2 ^ 6) else regValue s (.rlen f)
  | .txt _ => BitVec.ofNat 32 (d.toNat % 2 ^ 8)
  | .recb _ _ => BitVec.ofNat 32 (d.toNat % 2 ^ 8)
  | r => regValue s r

/-- The state of the host's side once its next input has been taken. -/
def taken (rest : List Input) (s : State) : State := { s with host := { s.host with pending := rest } }

end Sys2Proof.Claims

open Sys2Proof Sys2Proof.Machine Sys2Proof.Claims

/-! Encoding. -/

/-- Decode and encode agree on every command, with every operand at every value of its field (R91 to R94). -/
def Obligations.DecodeOfEncodeIsTheInstruction : Prop := ∀ i : Instr, decodeWord (encodeWord i) = .ok i

/-- A word that decodes is the encoding of what it decodes to: no bit of a legal word is dropped (R91). -/
def Obligations.EncodeOfDecodeIsTheWord : Prop := ∀ (w : CmdWord) (i : Instr), decodeWord w = .ok i → encodeWord i = w

/-- R93: the legal words are exactly the words that decode; a word selects a command iff `word & mask = match`; at
most one command matches any word. -/
def Obligations.LegalWordsAreTheCommands : Prop :=
  (∀ w : CmdWord, legalWord w = true ↔ ∃ i, decodeWord w = .ok i)
  ∧ (∀ w : CmdWord, ∀ r ∈ opcodeTable,
      selects r w = true ↔ ∃ i, decodeWord w = .ok i ∧ mnemonicOf i = r.mnemonic)
  ∧ (∀ w : CmdWord, ∀ r ∈ opcodeTable, ∀ r' ∈ opcodeTable, selects r w = true → selects r' w = true → r = r')

/-- R100: the worked encodings, legal and illegal. -/
def Obligations.WorkedEncodingsDecode : Prop :=
  decodeWord 0x0100000000000000 = .ok .tblbuild
  ∧ decodeWord 0x1000000000000000 = .ok .mpclr
  ∧ decodeWord 0x120000000001869F = .ok (.mpadd 99999)
  ∧ decodeWord 0x1300000000000001 = .ok (.mpsub 1)
  ∧ decodeWord 0x1400000A00000001 = .ok (.mpmuladd 10 1)
  ∧ decodeWord 0x140F42400008A736 = .ok (.mpmuladd 1000000 567094)
  ∧ decodeWord 0x140FFFFFFFFFFFFF = .ok (.mpmuladd 1048575 4294967295)
  ∧ decodeWord 0x1500027C00000000 = .ok (.mpdivmod 636)
  ∧ decodeWord 0x1500055500000000 = .ok (.mpdivmod 1365)
  ∧ decodeWord 0x6100000000000000 = .ok .decode
  ∧ legalWord 0x1000000000000001 = false
  ∧ legalWord 0xFF00000000000000 = false
  ∧ legalWord 0x1210000000000001 = false
  ∧ legalWord 0x1500000A00000005 = false
  ∧ legalWord 0x1200000100000005 = false

/-! The step. -/

/-- When the next thing presented is a word that decodes to `i`, the step is `exec i`, on the state in which the
word has been taken from the port. -/
def Obligations.StepRunsTheDecodedCommand : Prop :=
  ∀ (s : State) (w : CmdWord) (i : Instr) (rest : List Input),
    s.host.pending = .command w :: rest → decodeWord w = .ok i → step s = exec i (taken rest s)

/-- R303: an illegal word, presented next, writes STATUS and nothing else. -/
def Obligations.IllegalWordWritesStatusOnly : Prop :=
  ∀ (s : State) (w : CmdWord) (rest : List Input),
    s.host.pending = .command w :: rest → legalWord w = false →
      step s = .next { taken rest s with status := .illegalCmd }

/-- With nothing presented the block waits, unchanged (R340); a reset gives the state of R340 at once, whatever the
state was (R341). That what the host has still to present and has been answered survive a reset is the MODEL's
choice (log entry 1). -/
def Obligations.IdleWaitsAndResetResets : Prop :=
  (∀ s : State, s.host.pending = [] → step s = .next s)
  ∧ (∀ (s : State) (rest : List Input), s.host.pending = .reset :: rest →
      step s = .next { State.reset with host := { pending := rest, answers := s.host.answers } })

/-- The machine goes on for any number of steps from any state: no step ends in a fault or a refusal (R352). -/
def Obligations.RunsNeverStop : Prop := ∀ (k : Nat) (s : Sys2Proof.core.State), SafeFor k s

/-- R340: after reset every register the host can read, the tables and the ROM apart, reads 0; the tables are not
built; the ROM is the same as in every state; and the block waits. -/
def Obligations.ResetReadsZero : Prop :=
  (∀ r : Reg, readsTables r = false → (∀ i, r ≠ .perm i) → regValue State.reset r = 0)
  ∧ State.reset.tables = []
  ∧ (∀ (s : State) (i : Fin 65), regValue State.reset (.perm i) = regValue s (.perm i))
  ∧ step State.reset = .next State.reset

/-! The host register port. -/

/-- R64: every register stands at its address and no address has two. -/
def Obligations.RegisterMapIsOneToOne : Prop :=
  (∀ r : Reg, regAddress r < 2 ^ 14 ∧ regAt (BitVec.ofNat 14 (regAddress r)) = some r)
  ∧ (∀ (a : RegAddr) (r : Reg), regAt a = some r → regAddress r = a.toNat)

/-- R66, R67: a read returns the register's value, and 0 at an unmapped address; the one thing it can change in the
block is to build the tables, when the address is a table's. That the datum goes to the end of `answers` is the
MODEL's form (log entry 2). -/
def Obligations.HostReadReturnsTheRegister : Prop :=
  ∀ (s : State) (a : RegAddr) (rest : List Input), s.host.pending = .read a :: rest → s.TablesOk →
    (regAt a = none → step s = .next { s with host := { pending := rest, answers := s.host.answers ++ [0] } })
    ∧ (∀ r, regAt a = some r → readsTables r = false →
        step s = .next { s with host := { pending := rest, answers := s.host.answers ++ [regValue s r] } })
    ∧ (∀ r, regAt a = some r → readsTables r = true →
        step s = .next { built s with host := { pending := rest, answers := s.host.answers ++ [regValue (built s) r] } })

/-- R66, R67: a write gives the register the low bits of the datum (an illegal length and a read-only register keep
their value), every other register reads as before, and a write at an unmapped address changes nothing. -/
def Obligations.HostWriteStoresTheLowBits : Prop :=
  ∀ (s : State) (a : RegAddr) (d : RegData) (rest : List Input), s.host.pending = .write a d :: rest →
    (regAt a = none → step s = .next (taken rest s))
    ∧ (∀ r, regAt a = some r → ∃ t, step s = .next t ∧ t.host = (taken rest s).host
        ∧ t.tables = s.tables ∧ regValue t r = storedValue d s r
        ∧ ∀ r', r' ≠ r → regValue t r' = regValue s r')

/-- R63, R64, R66, R300, R30, R27, R36: how every register reads, in every state: the coded ones as the codes of STATUS,
REASON, SEQ and symbols, which are listed; FLAGS, LENFIX, the words of HL, of PERM and of DEC by their bits; all others
as their field, zero-extended. -/
def Obligations.RegisterWordsHaveTheirLayout : Prop :=
  ([.ok, .okRepaired, .vZip, .vPlus4, .vDeliveryPt, .vBarcodeId, .vServiceType, .vMailerId, .vSerialNum, .formatLength,
      .formatSymbol, .unrecoverable, .invalid, .ambiguous, .orientation, .operand, .illegalCmd].map statusCode
    = [0x00, 0x01, 0x11, 0x12, 0x13, 0x14, 0x15, 0x16, 0x17, 0x20, 0x21, 0x22, 0x30, 0x31, 0x40, 0x7E, 0x7F])
  ∧ [.none, .lookup, .range, .odd, .fcs, .route].map reasonCode = [0, 1, 2, 3, 4, 5]
  ∧ [.idle, .norm, .strict, .lenscan, .candgen, .search, .flip, .commit, .fail].map phaseCode
      = [0, 1, 2, 3, 4, 5, 6, 7, 8]
  ∧ [.t, .a, .d, .f, .x].map symbolCode = [0, 1, 2, 3, 4]
  ∧ ∀ s : State,
      (regValue s .flags).toNat = s.z.toNat + 2 * s.ovf.toNat + 4 * s.tblrdy.toNat
      ∧ (regValue s .lenfix).toNat
          = (match s.lfk with | .none => 0 | .insert => 1 | .delete => 2) + 256 * s.lfp.toNat
      ∧ (∀ (k : Fin 3) (j : Fin 32),
          (regValue s (.hl k)).getLsbD j = if h : 32 * k.val + j.val < 65 then s.hl[32 * k.val + j.val] else false)
      ∧ (∀ i : Fin 65, (regValue s (.perm i)).toNat
          = permTable[i].ascChar.val + 16 * permTable[i].ascBit.val + 256 * permTable[i].descChar.val
            + 4096 * permTable[i].descBit.val)
      ∧ (∀ p : Fin 8192, (regValue s (.dec p)).toNat
          = match decRead s.tables (BitVec.ofNat 13 p) with
            | none => 0
            | some k => k.toNat + 2048 * (fctRead s.tables (BitVec.ofNat 13 p)).toNat + 32768)
      ∧ (regValue s .status).toNat = (statusCode s.status).toNat
      ∧ (regValue s .reason).toNat = (reasonCode s.reason).toNat
      ∧ (regValue s .seq).toNat = (phaseCode s.seq).toNat
      ∧ (∀ i : Fin 65, (regValue s (.cand i)).toNat = (symbolCode s.cand[i]).toNat)
      ∧ (regValue s .rem).toNat = s.rem.toNat
      ∧ (regValue s .fcs).toNat = s.fcs.toNat
      ∧ (regValue s .rfcs).toNat = s.rfcs.toNat
      ∧ (regValue s .errcnt).toNat = s.errcnt.toNat
      ∧ (regValue s .prod).toNat = s.prod.toNat
      ∧ (regValue s .txtlen).toNat = s.txtlen.toNat
      ∧ (∀ i : Fin 10, (regValue s (.num i)).toNat = s.num[i].toNat)
      ∧ (∀ n : Fin 10, (regValue s (.ch n)).toNat = s.ch[n].toNat)
      ∧ (∀ n : Fin 10, (regValue s (.cw n)).toNat = s.cw[n].toNat)
      ∧ (∀ f : Fin 7, (regValue s (.rlen f)).toNat = s.rlen[f].toNat)
      ∧ (∀ i : Fin 128, (regValue s (.txt i)).toNat = s.txt[i].toNat)
      ∧ (∀ i : Fin 65, (regValue s (.sug i)).toNat = s.sug[i].toNat)
      ∧ (∀ (f : Fin 7) (i : Fin 32), (regValue s (.recb f i)).toNat = s.recb[f][i].toNat)
      ∧ (∀ k : Fin 1365, (regValue s (.enc k)).toNat = (encRead s.tables (BitVec.ofNat 11 k)).toNat)

/-! The tables. -/

/-- R125: TBLBUILD builds the tables if they are not built; STATUS and REASON are 0; nothing else changes. -/
def Obligations.TblbuildResult : Prop :=
  encodeWord .tblbuild = 0x0100000000000000
  ∧ ∀ s : State, exec .tblbuild s
      = .next (ended .ok .none { s with tables := if s.tblrdy then s.tables else builtTables, tblrdy := true })

/-- R126: the seven commands perform the build whatever their outcome, and so does a host read of a table address;
no other command does, nor an illegal word, nor any other host read, nor a host write, nor waiting; a reset leaves the
tables unbuilt (R341). -/
def Obligations.TableUsersBuildTheTables : Prop :=
  (∀ (i : Instr) (s : State), buildsTables i = true →
      ∃ t, exec i s = .next t ∧ t.tblrdy = true ∧ t.tables = if s.tblrdy then s.tables else builtTables)
  ∧ (∀ (i : Instr) (s : State), buildsTables i = false →
      ∃ t, exec i s = .next t ∧ t.tblrdy = s.tblrdy ∧ t.tables = s.tables)
  ∧ (∀ (a : RegAddr) (r : Reg) (s : State), regAt a = some r → readsTables r = true →
      ∃ t, hostRead a s = .next t ∧ t.tblrdy = true ∧ t.tables = if s.tblrdy then s.tables else builtTables)
  ∧ (∀ (w : CmdWord) (s : State), legalWord w = false →
      ∃ t, runWord w s = .next t ∧ t.tblrdy = s.tblrdy ∧ t.tables = s.tables)
  ∧ (∀ (a : RegAddr) (s : State), (∀ r, regAt a = some r → readsTables r = false) →
      ∃ t, hostRead a s = .next t ∧ t.tblrdy = s.tblrdy ∧ t.tables = s.tables)
  ∧ (∀ (a : RegAddr) (d : RegData) (s : State),
      ∃ t, hostWrite a d s = .next t ∧ t.tblrdy = s.tblrdy ∧ t.tables = s.tables)
  ∧ (∀ s : State, waitIdle s = .next s)
  ∧ (∀ s : State, ∃ t, perform .reset s = .next t ∧ t.tblrdy = false ∧ t.tables = [])

/-- Once built, the tables are never changed and TBLRDY stays 1, by any step but a reset (R39, R126, R341). -/
def Obligations.TablesOnceBuiltStay : Prop :=
  ∀ s t : State, s.tblrdy = true → s.host.pending.head? ≠ some .reset → step s = .next t →
    t.tblrdy = true ∧ t.tables = s.tables

/-- The build is R122's loop over all 8192 values, for the two classes in R124's order. -/
def Obligations.TableBuildIsTheLoop : Prop :=
  builtTables = loopClass 5 (List.range 8192) 0 1286 ++ loopClass 2 (List.range 8192) 1287 1364

/-- The contract of the build (R127): the weights of the entries of ENC, and DEC and FCT as its inverse on a pattern
and on its complement. -/
def Obligations.BuiltTablesAreInverse : Prop :=
  (∀ k : Fin 1365, popcount13 (encRead builtTables (BitVec.ofNat 11 k)) = if k.val ≤ 1286 then 5 else 2)
  ∧ (∀ k : Fin 1365,
      decRead builtTables (encRead builtTables (BitVec.ofNat 11 k)) = some (BitVec.ofNat 11 k)
      ∧ decRead builtTables (encRead builtTables (BitVec.ofNat 11 k) ^^^ 8191) = some (BitVec.ofNat 11 k)
      ∧ fctRead builtTables (encRead builtTables (BitVec.ofNat 11 k)) = false
      ∧ fctRead builtTables (encRead builtTables (BitVec.ofNat 11 k) ^^^ 8191) = true)
  ∧ (∀ (p : Char13) (k : Index), decRead builtTables p = some k →
      k.toNat ≤ 1364 ∧ encRead builtTables k ^^^ (if fctRead builtTables p then 8191 else 0) = p)

/-- R62: the populated entries of DEC are the patterns of weight 5, 8, 2 and 11, and there are 2730 of them. -/
def Obligations.LookupHitsByWeight : Prop :=
  (∀ p : Char13, (decRead builtTables p).isSome = true ↔ popcount13 p ∈ [5, 8, 2, 11])
  ∧ (List.range 8192).countP (fun p => (decRead builtTables (BitVec.ofNat 13 p)).isSome) = 2730

/-! Multi-precision arithmetic. -/

/-- R146: MPCLR. -/
def Obligations.MpclrResult : Prop :=
  encodeWord .mpclr = 0x1000000000000000
  ∧ ∀ s : State, exec .mpclr s = .next (ended .ok .none { s with num := Vector.replicate 10 0 })

/-- R147, R141: MPISZ writes Z: every word of N is 0, that is val(N) = 0. -/
def Obligations.MpiszResult : Prop :=
  encodeWord .mpisz = 0x1100000000000000
  ∧ (∀ num : Number, (∀ i : Fin 10, num[i] = 0) ↔ numVal num = 0)
  ∧ ∀ s : State, exec .mpisz s = .next (ended .ok .none { s with z := decide (∀ i : Fin 10, s.num[i] = 0) })

/-- R148: MPADD b adds modulo 2^110 and records a lost carry in OVF. -/
def Obligations.MpaddResult : Prop :=
  (∀ b : BitVec 32, encodeWord (.mpadd b) = 0x12#8 ++ 0#24 ++ b)
  ∧ ∀ (b : BitVec 32) (s : State), exec (.mpadd b) s
    = .next (ended .ok .none
        { s with
          num := numOf ((numVal s.num + b.toNat) % 2 ^ 110)
          ovf := decide (2 ^ 110 ≤ numVal s.num + b.toNat) })

/-- R149: MPSUB b subtracts modulo 2^110 and records a borrow in OVF. -/
def Obligations.MpsubResult : Prop :=
  (∀ b : BitVec 32, encodeWord (.mpsub b) = 0x13#8 ++ 0#24 ++ b)
  ∧ ∀ (b : BitVec 32) (s : State), exec (.mpsub b) s
    = .next (ended .ok .none
        { s with
          num := numOf ((numVal s.num + 2 ^ 110 - b.toNat) % 2 ^ 110)
          ovf := decide (numVal s.num < b.toNat) })

/-- R150: MPMULADD a, b multiplies and adds modulo 2^110 and records a lost carry in OVF. -/
def Obligations.MpmuladdResult : Prop :=
  (∀ (a : BitVec 20) (b : BitVec 32), encodeWord (.mpmuladd a b) = 0x14#8 ++ 0#4 ++ a ++ b)
  ∧ ∀ (a : BitVec 20) (b : BitVec 32) (s : State), exec (.mpmuladd a b) s
    = .next (ended .ok .none
        { s with
          num := numOf ((numVal s.num * a.toNat + b.toNat) % 2 ^ 110)
          ovf := decide (2 ^ 110 ≤ numVal s.num * a.toNat + b.toNat) })

/-- R151: MPDIVMOD a divides, REM is the remainder; a zero divisor raises OPERAND and writes nothing else. -/
def Obligations.MpdivmodResult : Prop :=
  (∀ a : BitVec 20, encodeWord (.mpdivmod a) = 0x15#8 ++ 0#4 ++ a ++ 0#32)
  ∧ ∀ (a : BitVec 20) (s : State),
    (a = 0 → exec (.mpdivmod a) s = .next (ended .operand .none s))
    ∧ (a ≠ 0 → ∃ t, exec (.mpdivmod a) s = .next t
        ∧ t = ended .ok .none { s with num := numOf (numVal s.num / a.toNat), rem := t.rem }
        ∧ t.rem.toNat = numVal s.num % a.toNat)

/-- Every number is below 2^110, and `from` and `val` are inverse (R11, R140). -/
def Obligations.NumbersAreTheirValues : Prop :=
  (∀ num : Number, numVal num < 2 ^ 110 ∧ numOf (numVal num) = num)
  ∧ ∀ v : Nat, v < 2 ^ 110 → numVal (numOf v) = v

/-- The inverse laws of R152: MPMULADD a, b then MPDIVMOD a, without overflow and with b < a; MPADD b then
MPSUB b, even through a wrap. -/
def Obligations.InverseArithmeticRestoresN : Prop :=
  (∀ (a : BitVec 20) (b : BitVec 32) (s t u : State), b.toNat < a.toNat →
      numVal s.num * a.toNat + b.toNat < 2 ^ 110 →
      exec (.mpmuladd a b) s = .next t → exec (.mpdivmod a) t = .next u →
      u.num = s.num ∧ u.rem.toNat = b.toNat)
  ∧ (∀ (b : BitVec 32) (s t u : State), exec (.mpadd b) s = .next t → exec (.mpsub b) t = .next u →
      u.num = s.num ∧ u.ovf = t.ovf)

/-! The frame check sequence. -/

/-- R173: FCSCALC writes the FCS of N; and the FCS is the one of R172's bit-serial form over the 110 bits of val(N). -/
def Obligations.FcscalcResult : Prop :=
  encodeWord .fcscalc = 0x2000000000000000
  ∧ ∀ s : State, exec .fcscalc s = .next (ended .ok .none { s with fcs := calcfcs s.num })
    ∧ calcfcs s.num = fcsSerial (numVal s.num)

/-- The FCS is affine (R174): `calcfcs(a ^ b) = calcfcs(a) ^ calcfcs(b) ^ calcfcs(0)`. -/
def Obligations.FcsIsAffine : Prop :=
  ∀ a b : Number,
    calcfcs (Vector.ofFn fun i => a[i] ^^^ b[i]) = calcfcs a ^^^ calcfcs b ^^^ calcfcs (Vector.replicate 10 0)

/-! Text and permutation. -/

/-- R182, R183: normalisation drops the white space and raises the lower-case letters; a text has symbols iff every
byte left is T, S, A, D or F, and they are the symbols of those letters, S read as T. -/
def Obligations.TextsReadAsSymbols : Prop :=
  (∀ t : List Byte, norm t
      = (t.filter fun b => !([0x09, 0x0A, 0x0B, 0x0C, 0x0D, 0x20] : List Byte).contains b).map
          fun b => if 0x61 ≤ b.toNat ∧ b.toNat ≤ 0x7A then BitVec.ofNat 8 (b.toNat - 0x20) else b)
  ∧ (∀ t : List Byte, toSymbols t = none ↔ ∃ b ∈ norm t, b ∉ ([0x54, 0x53, 0x41, 0x44, 0x46] : List Byte))
  ∧ (∀ (t : List Byte) (sy : List Symbol), toSymbols t = some sy →
      sy.map symbolByte = (norm t).map (fun b => if b = 0x53 then 0x54 else b) ∧ Symbol.x ∉ sy)

/-- R187: LOADTXT: the symbol check, then the length check, then CAND is the symbols. -/
def Obligations.LoadtxtResult : Prop :=
  encodeWord .loadtxt = 0x3000000000000000
  ∧ ∀ s : State,
    (toSymbols (textOf s) = none → exec .loadtxt s = .next (ended .formatSymbol .none s))
    ∧ (∀ sy, toSymbols (textOf s) = some sy → sy.length ≠ 65 →
        exec .loadtxt s = .next (ended .formatLength .none s))
    ∧ (∀ sy, toSymbols (textOf s) = some sy → sy.length = 65 →
        ∃ c : Candidate, c.toList = sy ∧ exec .loadtxt s = .next (ended .ok .none { s with cand := c }))

/-- R188, R185: PERMFWD: a bit of a character is set iff a half of a bar that drives it is printed. -/
def Obligations.PermfwdResult : Prop :=
  encodeWord .permfwd = 0x3100000000000000
  ∧ ∀ s : State, ∃ t, exec .permfwd s = .next t ∧ t = ended .ok .none { s with ch := t.ch }
    ∧ ∀ (n : Fin 10) (b : Fin 13), t.ch[n].getLsbD b = true ↔
        ∃ i : Fin 65,
          (asc s.cand[i] = true ∧ permTable[i].ascChar = n ∧ permTable[i].ascBit = b)
          ∨ (desc s.cand[i] = true ∧ permTable[i].descChar = n ∧ permTable[i].descBit = b)

/-- R189, R186: PERMINV: each bar's halves are the two bits that the tables give it; TXT takes the 65 letters and
keeps its other bytes. -/
def Obligations.PerminvResult : Prop :=
  encodeWord .perminv = 0x3200000000000000
  ∧ ∀ s : State, ∃ t, exec .perminv s = .next t
    ∧ t = ended .ok .none { s with cand := t.cand, txt := t.txt, txtlen := 65 }
    ∧ (∀ i : Fin 65,
        asc t.cand[i] = s.ch[permTable[i].ascChar].getLsbD permTable[i].ascBit
        ∧ desc t.cand[i] = s.ch[permTable[i].descChar].getLsbD permTable[i].descBit
        ∧ t.cand[i] ≠ .x)
    ∧ (∀ i : Fin 128, t.txt[i] = if h : i.val < 65 then symbolByte (t.cand[i.val]'h) else s.txt[i])

/-- R191: the two directions of the permutation are inverse; a placeholder comes back as T. -/
def Obligations.PermutationRoundTrip : Prop :=
  (∀ ch : Chars, symsToChars (charsToSyms ch) = ch)
  ∧ (∀ sy : Candidate, charsToSyms (symsToChars sy) = Vector.ofFn fun i => if sy[i] = .x then .t else sy[i])

/-- R184: the 130 half-bars drive the 130 character bits, one each; the halves of one bar fall in different
characters; the column sums. -/
def Obligations.PermutationTablesAreBijective : Prop :=
  (permRows.map (fun p => (p.ascChar, p.ascBit)) ++ permRows.map (fun p => (p.descChar, p.descBit))).Nodup
  ∧ (∀ (n : Fin 10) (b : Fin 13),
      (n, b) ∈ permRows.map (fun p => (p.ascChar, p.ascBit)) ++ permRows.map (fun p => (p.descChar, p.descBit)))
  ∧ (∀ p ∈ permRows, p.ascChar ≠ p.descChar)
  ∧ (permRows.map fun p => p.descChar.val).sum = 306 ∧ (permRows.map fun p => p.descBit.val).sum = 389
  ∧ (permRows.map fun p => p.ascChar.val).sum = 279 ∧ (permRows.map fun p => p.ascBit.val).sum = 391

/-- R190, R192: FLIPAD exchanges A and D in CAND; a second one restores it. -/
def Obligations.FlipadResult : Prop :=
  encodeWord .flipad = 0x3300000000000000
  ∧ ∀ s : State, ∃ t u, exec .flipad s = .next t ∧ t = ended .ok .none { s with cand := t.cand }
    ∧ (∀ i : Fin 65, t.cand[i] = if s.cand[i] = .a then .d else if s.cand[i] = .d then .a else s.cand[i])
    ∧ exec .flipad t = .next u ∧ u.cand = s.cand

/-! Codewords. -/

/-- R202, R200, R201: CWENC writes the digits of val(N) in the mixed radix 636, 1365, .., 1365, 659, the FCS, the
characters and the last quotient; a number outside the codeword space raises OPERAND. -/
def Obligations.CwencResult : Prop :=
  encodeWord .cwenc = 0x4000000000000000
  ∧ ∀ s : State, s.TablesOk →
    (codewordSpace ≤ numVal s.num → exec .cwenc s = .next (ended .operand .none (built s)))
    ∧ (numVal s.num < codewordSpace → ∃ t, exec .cwenc s = .next t
        ∧ t = ended .ok .none { built s with cw := t.cw, fcs := calcfcs s.num, ch := t.ch, num := t.num }
        ∧ t.cw[9].toNat = 2 * (numVal s.num % 636)
        ∧ (∀ n : Fin 10, 1 ≤ n.val → n.val ≤ 8 →
            t.cw[n].toNat = numVal s.num / (636 * 1365 ^ (8 - n.val)) % 1365)
        ∧ t.cw[0].toNat = numVal s.num / (636 * 1365 ^ 8) + (if (calcfcs s.num).getLsbD 10 then 659 else 0)
        ∧ (∀ n : Fin 10,
            t.ch[n] = encRead builtTables t.cw[n] ^^^ (if (calcfcs s.num).getLsbD n then 8191 else 0))
        ∧ numVal t.num = numVal s.num / (636 * 1365 ^ 8))

/-- R204: CWDEC: ERRCNT counts the characters of a weight other than 5, 8, 2, 11 on every outcome; the rest is
written on success only, and a failure carries the reason of the first check of R203 that fails. -/
def Obligations.CwdecResult : Prop :=
  encodeWord .cwdec = 0x4100000000000000
  ∧ ∀ s : State, s.TablesOk → ∃ t, exec .cwdec s = .next t
    ∧ t.errcnt.toNat = s.ch.toList.countP (fun p => !([5, 8, 2, 11].contains (popcount13 p)))
    ∧ match cwDecode builtTables s.ch with
      | .error reason => t = ended .invalid reason { built s with errcnt := t.errcnt }
      | .ok d =>
        t = ended .ok .none
          { built s with errcnt := t.errcnt, cw := d.cw, rfcs := d.fcs, fcs := d.fcs, num := d.num }

/-- R203: the checks of `cw_decode` and their order, on the raw indices, and the number of a success as the value of
its mixed-radix digits. -/
def Obligations.CwdecodeChecksInOrder : Prop :=
  ∀ (t : List Assignment) (ch : Chars) (k : Fin 10 → Index),
    ((∃ n : Fin 10, decRead t ch[n] = none) → cwDecode t ch = .error .lookup)
    ∧ ((∀ n : Fin 10, decRead t ch[n] = some (k n)) →
        ((1317 < (k 0).toNat ∨ 1270 < (k 9).toNat) → cwDecode t ch = .error .range)
        ∧ ((k 0).toNat ≤ 1317 → (k 9).toNat ≤ 1270 → (k 9).toNat % 2 = 1 → cwDecode t ch = .error .odd)
        ∧ ((k 0).toNat ≤ 1317 → (k 9).toNat ≤ 1270 → (k 9).toNat % 2 = 0 → (∀ n, (k n).toNat ≤ 1364) →
            ∃ (f : Fcs) (num : Number),
              (∀ n : Fin 10, f.getLsbD n = fctRead t ch[n]) ∧ f.getLsbD 10 = decide (658 < (k 0).toNat)
              ∧ numVal num
                  = (((((((((if 658 < (k 0).toNat then (k 0).toNat - 659 else (k 0).toNat) * 1365 + (k 1).toNat)
                      * 1365 + (k 2).toNat) * 1365 + (k 3).toNat) * 1365 + (k 4).toNat) * 1365 + (k 5).toNat)
                      * 1365 + (k 6).toNat) * 1365 + (k 7).toNat) * 1365 + (k 8).toNat) * 636 + (k 9).toNat / 2
              ∧ cwDecode t ch
                  = if calcfcs num = f then .ok { cw := Vector.ofFn k, fcs := f, num := num } else .error .fcs))

/-- R205: the two conversions are inverse on the codeword space. -/
def Obligations.CodewordRoundTrip : Prop :=
  (∀ num : Number, numVal num < codewordSpace → ∃ r, cwEncode builtTables num = some r
      ∧ cwDecode builtTables r.ch = .ok { cw := r.cw, fcs := r.fcs, num := num }
      ∧ r.cw[9].toNat % 2 = 0 ∧ r.cw[9].toNat ≤ 1270 ∧ r.cw[0].toNat ≤ 1317)
  ∧ (∀ (ch : Chars) (d : CwDecoded), cwDecode builtTables ch = .ok d →
      ∃ r, cwEncode builtTables d.num = some r ∧ r.ch = ch)

/-- After every successful ENCODE, CWENC, CWDEC and DECODE, CW, FCS and CH agree through ENC (R23). -/
def Obligations.CodewordsMatchCharacters : Prop :=
  ∀ i ∈ [Instr.encode, .cwenc, .cwdec, .decode], ∀ s t : State, s.TablesOk → exec i s = .next t →
    t.status.Success → t.CodewordsMatch

/-! Records. -/

/-- R222, R223: `validate` reports the first of the seven steps that fails. -/
def Obligations.ValidationReportsTheFirstViolation : Prop :=
  ∀ r : Record, validate r = ((validationSteps r).find? fun step => step.1).map fun step => step.2

/-- R225, R228: PACK validates and writes the packed value, or raises the code of the first violated constraint and
writes nothing else. -/
def Obligations.PackResult : Prop :=
  encodeWord .pack = 0x5000000000000000
  ∧ ∀ s : State,
    (∀ st, validate (normalisedRecord s) = some st → exec .pack s = .next (ended st .none s))
    ∧ (validate (normalisedRecord s) = none →
        exec .pack s = .next (ended .ok .none { s with num := numOf (packValue (normalisedRecord s)) }))

/-- R227: UNPACK raises INVALID with REASON ROUTE when a value remains after the routing digits, that is when
val(N) div (5 * 10^19) > 101000100000; otherwise the fields read as the unpacked record, the bytes beyond each
field keep their values, and N is 0. -/
def Obligations.UnpackResult : Prop :=
  encodeWord .unpack = 0x5100000000000000
  ∧ ∀ s : State,
    (101000100000 < numVal s.num / (5 * 10 ^ 19) → exec .unpack s = .next (ended .invalid .route s))
    ∧ (numVal s.num / (5 * 10 ^ 19) ≤ 101000100000 → ∃ t, exec .unpack s = .next t
        ∧ t = ended .ok .none { s with recb := t.recb, rlen := t.rlen, num := Vector.replicate 10 0 }
        ∧ (∀ f : Fin 7, fieldOf t f = (recordFields (unpack s.num).record)[f])
        ∧ (∀ (f : Fin 7) (i : Fin 32), (recordFields (unpack s.num).record)[f].length ≤ i.val →
            t.recb[f][i] = s.recb[f][i]))

/-- Packing then unpacking a valid record gives it back without residue when R226's sentinel splits its 15 digits as
it did; otherwise the same 15 digits come back split the other way (R224, R226, R229, and vectors E11 and E13). -/
def Obligations.UnpackOfPack : Prop :=
  ∀ r : Record, validate r = none →
    (SentinelSplit r → unpack (pack r) = { record := r, residue := false })
    ∧ (r.mailerId.length = 6 → r.mailerId.head? = some 0x39 →
        unpack (pack r)
          = { record := { r with mailerId := r.mailerId ++ r.serialNum.take 3, serialNum := r.serialNum.drop 3 }
              residue := false })
    ∧ (r.mailerId.length = 9 → r.mailerId.head? ≠ some 0x39 →
        unpack (pack r)
          = { record := { r with mailerId := r.mailerId.take 6, serialNum := r.mailerId.drop 6 ++ r.serialNum }
              residue := false })

/-! ENCODE and DECODE. -/

/-- R251: ENCODE writes the payload, its codewords, characters, symbols and text, and cannot refuse a validated
record; a violated constraint raises its code with only the tables built. -/
def Obligations.EncodeResult : Prop :=
  encodeWord .encode = 0x6000000000000000
  ∧ ∀ s : State, s.TablesOk →
    (∀ st, validate (normalisedRecord s) = some st → exec .encode s = .next (ended st .none (built s)))
    ∧ (validate (normalisedRecord s) = none → ∃ r t,
        cwEncode builtTables (numOf (packValue (normalisedRecord s))) = some r
        ∧ exec .encode s = .next t
        ∧ t = ended .ok .none
            { built s with
              num := numOf (packValue (normalisedRecord s))
              cw := r.cw
              fcs := r.fcs
              ch := r.ch
              cand := charsToSyms r.ch
              txt := t.txt
              txtlen := 65 }
        ∧ (∀ i : Fin 128, t.txt[i] = if h : i.val < 65 then symbolByte ((charsToSyms r.ch)[i.val]'h) else s.txt[i]))

/-- On a valid record ENCODE is PACK, CWENC, PERMINV, but that N is the payload PACK leaves (R250). -/
def Obligations.EncodeIsPackCwencPerminv : Prop :=
  ∀ s : State, s.TablesOk → validate (normalisedRecord s) = none →
    ∃ p c t e, exec .pack s = .next p ∧ exec .cwenc p = .next c ∧ exec .perminv c = .next t
      ∧ exec .encode s = .next e ∧ e = { t with num := p.num }

/-- R253: DECODE, which runs the phase machine and the depth-first search, does what R253's pseudocode does with the
search taken as R276's count of the valid combinations. -/
def Obligations.DecodeFollowsItsPseudocode : Prop :=
  encodeWord .decode = 0x6100000000000000
  ∧ ∀ s : State, s.TablesOk → exec .decode s = .next (decodeReference s)

/-- A failed DECODE leaves CAND, CH, CW, RFCS, FCS, N and the bytes of REC as they were and an empty record, no
suggestion, highlight or length correction (R255). -/
def Obligations.FailedDecodeCommitsNothing : Prop :=
  ∀ s t : State, exec .decode s = .next t → ¬ t.status.Success →
    t = { s with
      tables := t.tables
      tblrdy := true
      rlen := Vector.replicate 7 0
      sug := Vector.replicate 65 0
      hl := Vector.replicate 65 false
      lfk := .none
      lfp := 0
      errcnt := t.errcnt
      prod := t.prod
      status := t.status
      reason := t.reason
      seq := .idle }

/-- The result of DECODE depends on the text alone (R253): two states with the same text end with the same status,
diagnostics and suggestion, and after a success with the same candidate, characters, codewords, FCS, number and
record. -/
def Obligations.DecodeDependsOnTheTextAlone : Prop :=
  ∀ s1 s2 t1 t2 : State, s1.TablesOk → s2.TablesOk → textOf s1 = textOf s2 →
    exec .decode s1 = .next t1 → exec .decode s2 = .next t2 →
    t1.status = t2.status ∧ t1.reason = t2.reason ∧ t1.errcnt = t2.errcnt ∧ t1.prod = t2.prod
    ∧ t1.lfk = t2.lfk ∧ t1.lfp = t2.lfp ∧ t1.sug = t2.sug ∧ t1.hl = t2.hl ∧ t1.rlen = t2.rlen
    ∧ (t1.status.Success → t1.cand = t2.cand ∧ t1.ch = t2.ch ∧ t1.cw = t2.cw ∧ t1.rfcs = t2.rfcs
        ∧ t1.fcs = t2.fcs ∧ t1.num = t2.num ∧ ∀ f : Fin 7, fieldOf t1 f = fieldOf t2 f)

/-- The round trip (R258, R229), for every valid record: encoded and decoded it comes back field by field with its
mailer and serial digits split by R226's sentinel, and so unchanged when the sentinel splits them as the record does.
R229 names one form that comes back split the other way, a 6-digit mailer_id starting with 9 (vector E11); vector E13
shows a second, a 9-digit one not starting with 9 (log entry 7). -/
def Obligations.DecodeOfEncodeRestoresTheRecord : Prop :=
  ∀ s : State, s.TablesOk → validate (normalisedRecord s) = none →
    ∃ t u, exec .encode s = .next t ∧ exec .decode t = .next u ∧ u.status = .ok ∧ u.num = t.num
      ∧ (∀ f : Fin 7, fieldOf u f = (recordFields (splitBySentinel (normalisedRecord s)))[f])
      ∧ (SentinelSplit (normalisedRecord s) → ∀ f : Fin 7, fieldOf u f = (recordFields (normalisedRecord s))[f])

/-! Repair. -/

/-- R272: `length_fix` keeps the first variant of the least score, if that is 4 or less. -/
def Obligations.LengthFixKeepsTheFirstBest : Prop :=
  ∀ (t : List Assignment) (sy : List Symbol),
    (∀ c, lengthFix t sy = some c →
      c.pos < variantCount sy ∧ c.cand.toList = variantAt sy c.pos ∧ c.kind = variantKind sy
      ∧ c.misses = misses t c.cand ∧ c.misses ≤ 4
      ∧ ∀ q, q < variantCount sy →
          c.misses ≤ misses t (toCandidate (variantAt sy q))
          ∧ (q < c.pos → c.misses < misses t (toCandidate (variantAt sy q))))
    ∧ (lengthFix t sy = none ↔ ∀ q, q < variantCount sy → 5 ≤ misses t (toCandidate (variantAt sy q)))

/-- R273: LENFIX. -/
def Obligations.LenfixResult : Prop :=
  encodeWord .lenfix = 0x7000000000000000
  ∧ ∀ s : State, s.TablesOk → exec .lenfix s = .next
      (match toSymbols (textOf s) with
       | none => ended .formatSymbol .none (built s)
       | some sy =>
         match lengthFix builtTables sy with
         | none => ended .formatLength .none (built s)
         | some c =>
           ended .ok .none
             { built s with
               cand := c.cand
               lfk := c.kind
               lfp := BitVec.ofNat 7 c.pos
               errcnt := BitVec.ofNat 4 c.misses })

/-- R276: the search finds the valid combinations in order, and stops at the second. -/
def Obligations.SearchFindsTheValidCombinations : Prop :=
  ∀ (t : List Assignment) (ch : Chars), (solutions t ch).map (fun r => r.ch) = (validChoices t ch).take 2

/-- R277: BITFIX does what its pseudocode does with the search taken as the count of the valid combinations. -/
def Obligations.BitfixResult : Prop :=
  encodeWord .bitfix = 0x7100000000000000
  ∧ ∀ s : State, s.TablesOk → exec .bitfix s = .next (bitfixReference s)

/-- R270, R27: DECODE starts in NORM, LENFIX in NORM, BITFIX in CANDGEN; every transition from then on is one that
R270 gives that command, with SEQ at the phase it enters; after every command, these and the others, SEQ is IDLE. -/
def Obligations.SequencerFollowsTheTable : Prop :=
  (∀ s : State, exec .decode s
      = .next (runJob maxTransitions (.decodeNorm, { clearDecodeOutputs (ensureTables s) with seq := .norm })))
  ∧ (∀ s : State, exec .lenfix s
      = .next (runJob maxTransitions (.lenfixNorm, { ensureTables s with seq := .norm })))
  ∧ (∀ s : State, exec .bitfix s
      = .next (runJob maxTransitions (.bitfixCandgen, { ensureTables s with seq := .candgen })))
  ∧ KeepsTo decodeJob decodeTransition
  ∧ KeepsTo lenfixJob lenfixTransition
  ∧ KeepsTo bitfixJob bitfixTransition
  ∧ (∀ (i : Instr) (s t : State), exec i s = .next t → t.seq = .idle)

/-! The whole machine. -/

/-- The "Written by" lists of `10_state.md` R20 to R38: a command not listed for a register leaves it unchanged. -/
def Obligations.OnlyListedCommandsWrite : Prop :=
  ∀ (i : Instr) (s t : State), exec i s = .next t →
    (mnemonicOf i ∉ ["MPCLR", "MPADD", "MPSUB", "MPMULADD", "MPDIVMOD", "CWENC", "CWDEC", "PACK", "UNPACK", "ENCODE",
        "DECODE"] → t.num = s.num)
    ∧ (mnemonicOf i ∉ ["PERMFWD", "CWENC", "BITFIX", "ENCODE", "DECODE"] → t.ch = s.ch)
    ∧ (mnemonicOf i ∉ ["CWENC", "CWDEC", "ENCODE", "DECODE"] → t.cw = s.cw)
    ∧ (mnemonicOf i ∉ ["LOADTXT", "PERMINV", "FLIPAD", "LENFIX", "ENCODE", "DECODE"] → t.cand = s.cand)
    ∧ (mnemonicOf i ∉ ["PERMINV", "ENCODE"] → t.txt = s.txt ∧ t.txtlen = s.txtlen)
    ∧ (mnemonicOf i ∉ ["UNPACK", "DECODE"] → t.recb = s.recb ∧ t.rlen = s.rlen)
    ∧ (mnemonicOf i ∉ ["MPISZ"] → t.z = s.z)
    ∧ (mnemonicOf i ∉ ["MPADD", "MPSUB", "MPMULADD"] → t.ovf = s.ovf)
    ∧ (mnemonicOf i ∉ ["MPDIVMOD"] → t.rem = s.rem)
    ∧ (mnemonicOf i ∉ ["FCSCALC", "CWENC", "CWDEC", "ENCODE", "DECODE"] → t.fcs = s.fcs)
    ∧ (mnemonicOf i ∉ ["CWDEC", "DECODE"] → t.rfcs = s.rfcs)
    ∧ (mnemonicOf i ∉ ["CWDEC", "LENFIX", "BITFIX", "DECODE"] → t.errcnt = s.errcnt)
    ∧ (mnemonicOf i ∉ ["BITFIX", "DECODE"] → t.prod = s.prod)
    ∧ (mnemonicOf i ∉ ["LENFIX", "DECODE"] → t.lfk = s.lfk ∧ t.lfp = s.lfp)
    ∧ (mnemonicOf i ∉ ["DECODE"] → t.sug = s.sug ∧ t.hl = s.hl)
    ∧ t.host = s.host

/-- R302: what each command can raise, with which reason, and that a raise writes only what R302 lists. -/
def Obligations.FailuresWriteOnlyWhatIsListed : Prop :=
  ∀ (i : Instr) (s t : State), s.TablesOk → exec i s = .next t →
    (t.status = .okRepaired → i = .decode)
    ∧ (t.status.Success → t.reason = .none)
    ∧ (¬ t.status.Success →
        (∃ e ∈ mayRaise i, t.status = e.1 ∧ t.reason ∈ e.2) ∧ t = raiseFrame i s t)

/-- Every step keeps the legal states legal (R23 to R39). -/
def Obligations.EveryStepKeepsInv : Prop := ∀ s t : State, s.Inv → step s = .next t → t.Inv

/-- The state after reset is legal. -/
def Obligations.ResetIsLegal : Prop := State.reset.Inv
end

