-- ==== Sys2Proof/Laws/Arith.lean ====
section
/-! SUPPORT. Laws/Arith.lean: the word loops of Machine/Arith.lean as arithmetic on values (`41_multiprecision.md`
R142, R144, R145). -/

namespace Sys2Proof.Machine

/-- The value of a list of words, most significant first. -/
def wordsVal (ws : List Word) : Nat := ws.foldl (fun v w => v * 2048 + w.toNat) 0

theorem foldl_words (ws : List Word) (v : Nat) :
    ws.foldl (fun v w => v * 2048 + w.toNat) v = v * 2048 ^ ws.length + wordsVal ws := by
  induction ws generalizing v with
  | nil => simp [wordsVal]
  | cons w ws ih =>
    have h : wordsVal (w :: ws) = w.toNat * 2048 ^ ws.length + wordsVal ws := by
      simp only [wordsVal, List.foldl_cons] at ih ⊢
      rw [ih]; simp
    rw [List.foldl_cons, ih, h, List.length_cons, pow_succ]
    ring

theorem wordsVal_cons (w : Word) (ws : List Word) :
    wordsVal (w :: ws) = w.toNat * 2048 ^ ws.length + wordsVal ws := by
  have h := foldl_words ws (0 * 2048 + w.toNat)
  rw [Nat.zero_mul, Nat.zero_add] at h
  rw [← h]
  simp [wordsVal]

theorem wordsVal_lt (ws : List Word) : wordsVal ws < 2048 ^ ws.length := by
  induction ws with
  | nil => simp [wordsVal]
  | cons w ws ih =>
    have hw : w.toNat ≤ 2047 := Nat.le_of_lt_succ w.isLt
    rw [wordsVal_cons, List.length_cons, pow_succ]
    nlinarith [Nat.mul_le_mul_right (2048 ^ ws.length) hw]

theorem numVal_eq_wordsVal (num : Number) : numVal num = wordsVal num.toList := rfl

theorem toNat_ofNat_word (x : Nat) : (BitVec.ofNat 11 x).toNat = x % 2048 := by
  rw [BitVec.toNat_ofNat]

/-- One step of the carry loop, on numbers. -/
theorem carry_step (w m k lo p hi c : Nat) (h : lo + k * p = hi * m + c) :
    (w * m + k) % 2048 * p + lo + (w * m + k) / 2048 * (p * 2048) = (w * p + hi) * m + c := by
  have hx := Nat.div_add_mod (w * m + k) 2048
  calc (w * m + k) % 2048 * p + lo + (w * m + k) / 2048 * (p * 2048)
      = (2048 * ((w * m + k) / 2048) + (w * m + k) % 2048) * p + lo := by ring
    _ = w * m * p + (lo + k * p) := by rw [hx]; ring
    _ = (w * p + hi) * m + c := by rw [h]; ring

/-- The loop of R142 and R144 keeps the sum: the words it leaves and the carry together are the value multiplied,
plus the carry it began with. -/
theorem wordsVal_carryWords (f : Word → Nat) (m : Nat) (hf : ∀ w, f w = w.toNat * m) (ws : List Word) (c : Nat) :
    wordsVal (carryWords f ws c).1 + (carryWords f ws c).2 * 2048 ^ ws.length = wordsVal ws * m + c := by
  induction ws with
  | nil => simp [carryWords, wordsVal]
  | cons w ws ih =>
    simp only [carryWords, wordsVal_cons, length_carryWords, hf, toNat_ofNat_word, List.length_cons]
    rw [pow_succ]
    exact carry_step _ _ _ _ _ _ _ ih

/-- R142: `mp_add` keeps the sum. -/
theorem numVal_mpAdd (num : Number) (s : Nat) :
    numVal (mpAdd num s).1 + (mpAdd num s).2 * 2 ^ 110 = numVal num + s := by
  have h := wordsVal_carryWords (fun w => w.toNat) 1 (fun w => (Nat.mul_one _).symm) num.toList s
  rw [Vector.length_toList, Nat.mul_one] at h
  exact h

/-- R144: `mp_muladd` keeps the sum. -/
theorem numVal_mpMulAdd (num : Number) (m a : Nat) :
    numVal (mpMulAdd num m a).1 + (mpMulAdd num m a).2 * 2 ^ 110 = numVal num * m + a := by
  have h := wordsVal_carryWords (fun w => w.toNat * m) m (fun _ => rfl) num.toList a
  rw [Vector.length_toList] at h
  exact h

/-- The loop of R145: the running remainder and the words that are left make the quotient and the remainder. -/
theorem wordsVal_divWords (d : Nat) (ws : List Word) (r : Nat) (hr : r < d) :
    d * wordsVal (divWords d ws r).1 + (divWords d ws r).2 = r * 2048 ^ ws.length + wordsVal ws
      ∧ (divWords d ws r).2 < d := by
  induction ws generalizing r with
  | nil => simp [divWords, wordsVal, hr]
  | cons w ws ih =>
    have hd : 0 < d := by omega
    obtain ⟨h1, h2⟩ := ih ((r * 2048 + w.toNat) % d) (Nat.mod_lt _ hd)
    have hq : (r * 2048 + w.toNat) / d < 2048 := by
      rw [Nat.div_lt_iff_lt_mul hd]
      have := w.isLt
      have : (r + 1) * 2048 ≤ d * 2048 := Nat.mul_le_mul_right _ hr
      omega
    refine ⟨?_, h2⟩
    simp only [divWords, wordsVal_cons, length_divWords, toNat_ofNat_word, List.length_cons, Nat.mod_eq_of_lt hq]
    have hx := Nat.div_add_mod (r * 2048 + w.toNat) d
    calc d * ((r * 2048 + w.toNat) / d * 2048 ^ ws.length
            + wordsVal (divWords d ws ((r * 2048 + w.toNat) % d)).1)
          + (divWords d ws ((r * 2048 + w.toNat) % d)).2
        = d * ((r * 2048 + w.toNat) / d) * 2048 ^ ws.length
          + (d * wordsVal (divWords d ws ((r * 2048 + w.toNat) % d)).1
            + (divWords d ws ((r * 2048 + w.toNat) % d)).2) := by ring
      _ = d * ((r * 2048 + w.toNat) / d) * 2048 ^ ws.length
          + ((r * 2048 + w.toNat) % d * 2048 ^ ws.length + wordsVal ws) := by rw [h1]
      _ = (d * ((r * 2048 + w.toNat) / d) + (r * 2048 + w.toNat) % d) * 2048 ^ ws.length + wordsVal ws := by ring
      _ = r * 2048 ^ (ws.length + 1) + (w.toNat * 2048 ^ ws.length + wordsVal ws) := by rw [hx]; ring

/-- R145: `mp_divmod` divides. -/
theorem mpDivmod_spec (num : Number) (d : Nat) (hd : 0 < d) :
    numVal (mpDivmod num d).1 = numVal num / d ∧ (mpDivmod num d).2 = numVal num % d := by
  obtain ⟨h1, h2⟩ := wordsVal_divWords d num.toList 0 hd
  rw [Nat.zero_mul, Nat.zero_add] at h1
  have hq : numVal (mpDivmod num d).1 = wordsVal (divWords d num.toList 0).1 := rfl
  have hr : (mpDivmod num d).2 = (divWords d num.toList 0).2 := rfl
  rw [hq, hr, numVal_eq_wordsVal, ← h1]
  constructor
  · rw [Nat.mul_add_div hd, Nat.div_eq_of_lt h2, Nat.add_zero]
  · rw [Nat.mul_add_mod, Nat.mod_eq_of_lt h2]

/-- `takeDigits` takes the low `k` digits in base `d` and leaves the quotient by `d ^ k`. -/
theorem takeDigits_spec (d : Nat) (hd : 0 < d) (k : Nat) (num : Number) (acc : List Nat) :
    numVal (takeDigits d k num acc).1 = numVal num / d ^ k
      ∧ (takeDigits d k num acc).2 = ((List.range k).map fun j => numVal num / d ^ (k - 1 - j) % d) ++ acc := by
  induction k generalizing num acc with
  | zero => simp [takeDigits]
  | succ k ih =>
    obtain ⟨h1, h2⟩ := ih (mpDivmod num d).1 ((mpDivmod num d).2 :: acc)
    obtain ⟨hq, hr⟩ := mpDivmod_spec num d hd
    have e1 : takeDigits d (k + 1) num acc = takeDigits d k (mpDivmod num d).1 ((mpDivmod num d).2 :: acc) := rfl
    rw [e1, h1, h2, hq, hr]
    refine ⟨by rw [Nat.div_div_eq_div_mul, Nat.pow_succ, Nat.mul_comm], ?_⟩
    rw [List.range_succ, List.map_append, List.append_assoc]
    simp only [List.map_cons, List.map_nil, List.singleton_append]
    congr 1
    · apply List.map_congr_left
      intro j hj
      have hj : j < k := List.mem_range.mp hj
      rw [Nat.div_div_eq_div_mul, ← Nat.pow_succ', show k + 1 - 1 - j = (k - 1 - j).succ by omega]
    · simp

end Sys2Proof.Machine
end

