-- ==== Sys2Proof/Laws/Ops.lean ====
section
/-! SUPPORT. Laws/Ops.lean: what the shared operations of Machine/Ops.lean and Machine/Operands.lean do, once each. -/

namespace Sys2Proof.Machine

@[simp] theorem toList_vecOfList {α : Type} {n : Nat} (l : List α) (h : l.length = n) :
    (vecOfList l h).toList = l := rfl

theorem getElem_vecFrom {α : Type} (n : Nat) (fill : α) (l : List α) (i : Nat) (h : i < n) :
    (vecFrom n fill l)[i] = l.getD i fill := by
  simp [vecFrom]

/-- A register file made from a list of exactly its length holds that list. -/
theorem toList_vecFrom {α : Type} (n : Nat) (fill : α) (l : List α) (h : l.length = n) :
    (vecFrom n fill l).toList = l := by
  apply List.ext_getElem
  · simp [h]
  · intro i h1 h2
    rw [Vector.getElem_toList, getElem_vecFrom]
    simp [List.getD_eq_getElem?_getD, h2]

theorem getElem_writeFront {α : Type} {n : Nat} (v : Vector α n) (l : List α) (i : Nat) (h : i < n) :
    (writeFront v l)[i] = l.getD i v[i] := by
  simp [writeFront]

/-- An entry beyond the written ones keeps its value. -/
theorem getElem_writeFront_of_le {α : Type} {n : Nat} (v : Vector α n) (l : List α) (i : Nat) (h : i < n)
    (hl : l.length ≤ i) : (writeFront v l)[i] = v[i] := by
  rw [getElem_writeFront, List.getD_eq_default _ _ hl]

/-- The written entries read back. -/
theorem take_writeFront {α : Type} {n : Nat} (v : Vector α n) (l : List α) (hl : l.length ≤ n) :
    (writeFront v l).toList.take l.length = l := by
  apply List.ext_getElem
  · simp [hl]
  · intro i h1 h2
    rw [List.getElem_take, Vector.getElem_toList, getElem_writeFront]
    simp [List.getD_eq_getElem?_getD, h2]

theorem takeInput_of_nil (s : State) (h : s.host.pending = []) : takeInput s = none := by
  simp [takeInput, h]

theorem takeInput_of_cons (s : State) (i : Input) (rest : List Input) (h : s.host.pending = i :: rest) :
    takeInput s = some (i, { s with host := { s.host with pending := rest } }) := by
  simp [takeInput, h]

/-- A field whose record text fits its buffer reads back as that text (R26). -/
theorem fieldOf_writeRecord (r : Record) (s : State) (f : Fin 7) (h : (recordFields r)[f].length ≤ 32) :
    fieldOf (writeRecord r s) f = (recordFields r)[f] := by
  have hlen : (BitVec.ofNat 6 (recordFields r)[f].length).toNat = (recordFields r)[f].length := by
    rw [BitVec.toNat_ofNat, Nat.mod_eq_of_lt (by omega)]
  simp only [fieldOf, writeRecord, Fin.getElem_fin, Vector.getElem_ofFn] at *
  rw [hlen, take_writeFront _ _ h]

/-- A field that fits leaves the buffer's other bytes as they were (R26). -/
theorem recb_writeRecord_of_le (r : Record) (s : State) (f : Fin 7) (i : Fin 32)
    (h : (recordFields r)[f].length ≤ i.val) : (writeRecord r s).recb[f][i] = s.recb[f][i] := by
  simp only [writeRecord, Fin.getElem_fin, Vector.getElem_ofFn] at *
  exact getElem_writeFront_of_le _ _ _ i.isLt h

@[simp] theorem length_symsToText (sy : Candidate) : (symsToText sy).length = 65 := by
  simp [symsToText]

/-- After the symbols are put, the text is their letters (R189). -/
theorem textOf_putSymbols (sy : Candidate) (s : State) : textOf (putSymbols sy s) = symsToText sy := by
  have h := take_writeFront s.txt (symsToText sy) (by simp)
  rw [length_symsToText] at h
  exact h

/-- Normalisation works byte by byte (R182). -/
theorem norm_append (a b : List Byte) : norm (a ++ b) = norm a ++ norm b := by
  induction a with
  | nil => rfl
  | cons x xs ih => by_cases h : isWhitespace x = true <;> simp [norm, h, ih]

theorem length_norm_le (t : List Byte) : (norm t).length ≤ t.length := by
  induction t with
  | nil => exact Nat.le_refl _
  | cons b bs ih =>
    by_cases h : isWhitespace b = true
    · simp only [norm, h, if_true, List.length_cons]; omega
    · simp only [norm, h, Bool.false_eq_true, if_false, List.length_cons]; omega

end Sys2Proof.Machine
end

