-- ==== Sys2Proof/Laws/Parts.lean ====
section
/-! SUPPORT. Laws/Parts.lean: small laws of the frame check sequence, the permutation, the codeword conversion, the
record packing and the repair stages. -/

namespace Sys2Proof.Machine

/-- R172: an advance is a shift, with 0x735 added in when a 1 leaves bit 10. -/
theorem fcsAdvance_eq (f : Fcs) : fcsAdvance f = if f.getLsbD 10 then (f <<< 1) ^^^ 0x735 else f <<< 1 := by
  have hb : (f.setWidth 12 <<< 1 : BitVec 12).getLsbD 11 = f.getLsbD 10 := by simp
  simp only [fcsAdvance, hb]
  cases f.getLsbD 10
  · apply BitVec.eq_of_getLsbD_eq
    intro i hi
    simp [hi]
  · apply BitVec.eq_of_getLsbD_eq
    intro i hi
    have hp : (fcsPoly.setWidth 11 : BitVec 11) = 0x735 := by decide
    rw [if_pos rfl, if_pos rfl, BitVec.setWidth_xor, hp, BitVec.getLsbD_xor, BitVec.getLsbD_xor]
    congr 1
    simp [hi]

/-- R180, R186: the halves of the symbol made of two halves. -/
@[simp] theorem asc_symbolOfHalves (a d : Bool) : asc (symbolOfHalves a d) = a := by
  cases a <;> cases d <;> rfl

@[simp] theorem desc_symbolOfHalves (a d : Bool) : desc (symbolOfHalves a d) = d := by
  cases a <;> cases d <;> rfl

theorem symbolOfHalves_ne_x (a d : Bool) : symbolOfHalves a d ≠ .x := by
  cases a <;> cases d <;> simp [symbolOfHalves]

/-- A printed symbol is made of its halves (R180). -/
theorem symbolOfHalves_asc_desc (sy : Symbol) (h : sy ≠ .x) : symbolOfHalves (asc sy) (desc sy) = sy := by
  cases sy <;> first | rfl | exact absurd rfl h

@[simp] theorem flipSymbol_flipSymbol (sy : Symbol) : flipSymbol (flipSymbol sy) = sy := by
  cases sy <;> rfl

@[simp] theorem asc_flipSymbol (sy : Symbol) : asc (flipSymbol sy) = desc sy := by
  cases sy <;> rfl

@[simp] theorem desc_flipSymbol (sy : Symbol) : desc (flipSymbol sy) = asc sy := by
  cases sy <;> rfl

/-- R185: what one half-bar does to one bit of one character. -/
theorem getLsbD_orBit (ch : Chars) (c n : Fin 10) (b : Fin 13) (k : Nat) :
    (orBit ch c b)[n].getLsbD k = (ch[n].getLsbD k || (decide (n = c) && decide (k = b.val))) := by
  by_cases h : n = c
  · subst h
    have hk : (1#13 <<< b.val).getLsbD k = decide (k = b.val) := by
      have hb := b.isLt
      by_cases hk : k = b.val
      · subst hk; simp [hb]
      · by_cases hlt : k < b.val
        · simp [hlt, hk]
        · simp [hlt, hk, show ¬ k - b.val = 0 by omega]
    simp [orBit, hk]
  · have hv : c.val ≠ n.val := fun e => h (Fin.ext e.symm)
    simp [orBit, h, hv]

/-- A pattern complemented on a bit (R201). -/
theorem polarised_eq (p : Char13) (b : Bool) : polarised p b = p ^^^ (if b then 8191 else 0) := by
  cases b <;> simp [polarised, complement13]

theorem missCount_le (t : List Assignment) (ch : Chars) : missCount t ch ≤ 10 := by
  have h := List.countP_le_length (p := fun p => (decRead t p).isNone) (l := ch.toList)
  rw [Vector.length_toList] at h
  exact h

/-- No lookup misses exactly when every character has an index (R203). -/
theorem missCount_eq_zero (t : List Assignment) (ch : Chars) :
    missCount t ch = 0 ↔ ∀ p ∈ ch.toList, (decRead t p).isSome = true := by
  rw [missCount, List.countP_eq_zero]
  constructor
  · intro h p hp
    have := h p hp
    cases hd : decRead t p <;> simp_all
  · intro h p hp
    have := h p hp
    cases hd : decRead t p <;> simp_all

/-- What a success of `cw_decode` says (R203). -/
theorem cwDecode_ok (t : List Assignment) (ch : Chars) (d : CwDecoded) (h : cwDecode t ch = .ok d) :
    missCount t ch = 0 ∧ d.cw = lookupAll t ch ∧ d.cw[0].toNat ≤ 1317 ∧ d.cw[9].toNat ≤ 1270
      ∧ d.cw[9].getLsbD 0 = false ∧ d.fcs = receivedFcs t ch (658 < d.cw[0].toNat) ∧ d.num = reassemble d.cw
      ∧ calcfcs d.num = d.fcs := by
  unfold cwDecode at h
  split at h
  · cases h
  · rename_i hm
    simp only at h
    split at h
    · cases h
    · rename_i hr
      split at h
      · cases h
      · rename_i ho
        split at h
        · rename_i hf
          cases h
          refine ⟨by omega, rfl, Nat.le_of_not_lt fun hc => hr (.inl hc), Nat.le_of_not_lt fun hc => hr (.inr hc), ?_,
            rfl, rfl, hf⟩
          simpa using ho
        · cases h

/-- What a success of `strict` says (R252). -/
theorem decodeChars_ok (t : List Assignment) (ch : Chars) (r : Decoded) (h : decodeChars t ch = .ok r) :
    ∃ d, cwDecode t ch = .ok d ∧ (unpack d.num).residue = false
      ∧ r = { ch := ch, cw := d.cw, fcs := d.fcs, num := d.num, record := (unpack d.num).record } := by
  unfold decodeChars at h
  split at h
  · cases h
  · rename_i d hd
    split at h
    · cases h
    · rename_i hres
      cases h
      exact ⟨d, hd, by simpa using hres, rfl⟩

/-- The scan of R272 keeps a variant that scores less than the cap, or the one it had. -/
theorem scanBest_mem (vs : List Corrected) (best : Nat) (out : Option Corrected) (c : Corrected)
    (h : scanBest vs best out = some c) : out = some c ∨ (c ∈ vs ∧ c.misses < best) := by
  induction vs generalizing best out with
  | nil => exact .inl h
  | cons v vs ih =>
    unfold scanBest at h
    split at h
    · rename_i hlt
      rcases ih _ _ h with h' | ⟨h1, h2⟩
      · cases h'; exact .inr ⟨List.mem_cons_self, hlt⟩
      · exact .inr ⟨List.mem_cons_of_mem _ h1, by omega⟩
    · rcases ih _ _ h with h' | ⟨h1, h2⟩
      · exact .inl h'
      · exact .inr ⟨List.mem_cons_of_mem _ h1, h2⟩

/-- The scan keeps nothing only when no variant scores less than the cap (R272). -/
theorem scanBest_none (vs : List Corrected) (best : Nat) :
    scanBest vs best none = none ↔ ∀ v ∈ vs, best ≤ v.misses := by
  have hsome : ∀ (vs : List Corrected) (best : Nat) (c : Corrected), scanBest vs best (some c) ≠ none := by
    intro vs
    induction vs with
    | nil => intro best c h; cases h
    | cons v vs ih =>
      intro best c
      unfold scanBest
      split
      · exact ih _ _
      · exact ih _ _
  induction vs with
  | nil => simp [scanBest]
  | cons v vs ih =>
    unfold scanBest
    split
    · rename_i hlt
      refine ⟨fun h => absurd h (hsome _ _ _), fun h => ?_⟩
      have := h v List.mem_cons_self
      omega
    · rename_i hge
      refine ih.trans ⟨fun h u hu => by 
          rcases List.mem_cons.mp hu with rfl | hu
          · omega
          · exact h u hu,
        fun h u hu => h u (List.mem_cons_of_mem _ hu)⟩

theorem lengthFix_of_64 (t : List Assignment) (sy : List Symbol) (h : sy.length = 64) :
    lengthFix t sy = scanBest (insertions t sy) Config.lenCap none := by
  rw [lengthFix, if_pos h]

theorem lengthFix_of_66 (t : List Assignment) (sy : List Symbol) (h : sy.length = 66) :
    lengthFix t sy = scanBest (deletions t sy) Config.lenCap none := by
  rw [lengthFix, if_neg (by omega), if_pos h]

/-- A variant that scores less than the cap is enough for a length correction (R272). -/
theorem exists_scanBest (vs : List Corrected) (v : Corrected) (hv : v ∈ vs) (h : v.misses < Config.lenCap) :
    ∃ c, scanBest vs Config.lenCap none = some c := by
  cases hs : scanBest vs Config.lenCap none with
  | some c => exact ⟨c, rfl⟩
  | none => exact absurd ((scanBest_none vs Config.lenCap).mp hs v hv) (Nat.not_le_of_lt h)

/-- No more is searched once there are two solutions (R276). -/
theorem search_of_two (t : List Assignment) (ls : List (List Char13)) (cur : List Char13) (sols : List Decoded)
    (h : 2 ≤ sols.length) : search t ls cur sols = sols := by
  cases ls <;> simp [search, h]

/-- Every candidate of a character looks up (R274). -/
theorem candidatesOf_populated (t : List Assignment) (p q : Char13) (h : q ∈ candidatesOf t p) :
    (decRead t q).isSome = true := by
  unfold candidatesOf at h
  split at h
  · rename_i hp
    rw [List.mem_singleton] at h
    rw [h]; exact hp
  · exact (List.mem_filter.mp h).2

end Sys2Proof.Machine
end

