-- ==== Sys2Proof/Laws/PerInstr.lean ====
section
/-! SUPPORT. Laws/PerInstr.lean: the statements made per instruction. `EncodedWordLegal`: the encoding of a command is
a legal word of R93. -/

namespace Sys2Proof.Laws.EncodedWordLegal

/-- R93: the word of the command is legal. -/
def Statement (i : Instr) : Prop := legalWord (encodeWord i) = true

/-- The fields of an encoded word, as numbers (R91): op, rsv = 0, A, B. -/
theorem toNat_encodeWord (i : Instr) :
    (encodeWord i).toNat = (opcodeOf i).toNat * 2 ^ 56 + (encodedA i).toNat * 2 ^ 32 + (encodedB i).toNat := by
  have ha := (encodedA i).isLt
  have hb := (encodedB i).isLt
  simp only [encodeWord, BitVec.toNat_append, BitVec.toNat_ofNat]
  have h0 : 0 % 2 ^ 4 < 2 ^ 4 := by decide
  rw [← Nat.shiftLeft_add_eq_or_of_lt hb, ← Nat.shiftLeft_add_eq_or_of_lt ha, ← Nat.shiftLeft_add_eq_or_of_lt h0]
  simp only [Nat.shiftLeft_eq]
  omega

theorem wordOp_encodeWord (i : Instr) : wordOp (encodeWord i) = (opcodeOf i).toNat := by
  have ha := (encodedA i).isLt
  have hb := (encodedB i).isLt
  rw [wordOp, toNat_encodeWord]
  omega

theorem wordRsv_encodeWord (i : Instr) : wordRsv (encodeWord i) = 0 := by
  have ha := (encodedA i).isLt
  have hb := (encodedB i).isLt
  rw [wordRsv, toNat_encodeWord]
  omega

theorem wordA_encodeWord (i : Instr) : wordA (encodeWord i) = (encodedA i).toNat := by
  have ha := (encodedA i).isLt
  have hb := (encodedB i).isLt
  rw [wordA, toNat_encodeWord]
  omega

theorem wordB_encodeWord (i : Instr) : wordB (encodeWord i) = (encodedB i).toNat := by
  have ha := (encodedA i).isLt
  have hb := (encodedB i).isLt
  rw [wordB, toNat_encodeWord]
  omega

/-- A word is legal when its opcode is assigned and the operands the opcode does not use are 0. -/
theorem of_fields (i : Instr) (hop : assignedOpcodes.contains (opcodeOf i).toNat = true)
    (ha : (encodedA i).toNat = 0 ∨ [0x14, 0x15].contains (opcodeOf i).toNat = true)
    (hb : (encodedB i).toNat = 0 ∨ [0x12, 0x13, 0x14].contains (opcodeOf i).toNat = true) : Statement i := by
  simp only [Statement, legalWord, opcodeAssigned, reservedClear, operandAAllowed, operandBAllowed,
    wordOp_encodeWord, wordRsv_encodeWord, wordA_encodeWord, wordB_encodeWord, Bool.and_eq_true, Bool.or_eq_true,
    beq_iff_eq]
  exact ⟨⟨⟨hop, trivial⟩, ha⟩, hb⟩

theorem tblbuild : Statement .tblbuild := of_fields _ rfl (.inl rfl) (.inl rfl)
theorem mpclr : Statement .mpclr := of_fields _ rfl (.inl rfl) (.inl rfl)
theorem mpisz : Statement .mpisz := of_fields _ rfl (.inl rfl) (.inl rfl)
theorem mpadd (b : BitVec 32) : Statement (.mpadd b) := of_fields _ rfl (.inl rfl) (.inr rfl)
theorem mpsub (b : BitVec 32) : Statement (.mpsub b) := of_fields _ rfl (.inl rfl) (.inr rfl)
theorem mpmuladd (a : BitVec 20) (b : BitVec 32) : Statement (.mpmuladd a b) := of_fields _ rfl (.inr rfl) (.inr rfl)
theorem mpdivmod (a : BitVec 20) : Statement (.mpdivmod a) := of_fields _ rfl (.inr rfl) (.inl rfl)
theorem fcscalc : Statement .fcscalc := of_fields _ rfl (.inl rfl) (.inl rfl)
theorem loadtxt : Statement .loadtxt := of_fields _ rfl (.inl rfl) (.inl rfl)
theorem permfwd : Statement .permfwd := of_fields _ rfl (.inl rfl) (.inl rfl)
theorem perminv : Statement .perminv := of_fields _ rfl (.inl rfl) (.inl rfl)
theorem flipad : Statement .flipad := of_fields _ rfl (.inl rfl) (.inl rfl)
theorem cwenc : Statement .cwenc := of_fields _ rfl (.inl rfl) (.inl rfl)
theorem cwdec : Statement .cwdec := of_fields _ rfl (.inl rfl) (.inl rfl)
theorem pack : Statement .pack := of_fields _ rfl (.inl rfl) (.inl rfl)
theorem unpack : Statement .unpack := of_fields _ rfl (.inl rfl) (.inl rfl)
theorem encode : Statement .encode := of_fields _ rfl (.inl rfl) (.inl rfl)
theorem decode : Statement .decode := of_fields _ rfl (.inl rfl) (.inl rfl)
theorem lenfix : Statement .lenfix := of_fields _ rfl (.inl rfl) (.inl rfl)
theorem bitfix : Statement .bitfix := of_fields _ rfl (.inl rfl) (.inl rfl)

end Sys2Proof.Laws.EncodedWordLegal
end

