-- ==== Sys2Proof/Laws/State.lean ====
section
/-! SUPPORT. Laws/State.lean: what every field holds after every named update of the state, one lemma per field per
update. A field the update does not write reads as before. -/

namespace Sys2Proof.Machine

/-! `raise` -/

@[simp] theorem raise_num (st : Status) (r : Reason) (s : State) : (raise st r s).num = s.num := rfl
@[simp] theorem raise_ch (st : Status) (r : Reason) (s : State) : (raise st r s).ch = s.ch := rfl
@[simp] theorem raise_cw (st : Status) (r : Reason) (s : State) : (raise st r s).cw = s.cw := rfl
@[simp] theorem raise_cand (st : Status) (r : Reason) (s : State) : (raise st r s).cand = s.cand := rfl
@[simp] theorem raise_txt (st : Status) (r : Reason) (s : State) : (raise st r s).txt = s.txt := rfl
@[simp] theorem raise_txtlen (st : Status) (r : Reason) (s : State) : (raise st r s).txtlen = s.txtlen := rfl
@[simp] theorem raise_recb (st : Status) (r : Reason) (s : State) : (raise st r s).recb = s.recb := rfl
@[simp] theorem raise_rlen (st : Status) (r : Reason) (s : State) : (raise st r s).rlen = s.rlen := rfl
@[simp] theorem raise_seq (st : Status) (r : Reason) (s : State) : (raise st r s).seq = .idle := rfl
@[simp] theorem raise_z (st : Status) (r : Reason) (s : State) : (raise st r s).z = s.z := rfl
@[simp] theorem raise_ovf (st : Status) (r : Reason) (s : State) : (raise st r s).ovf = s.ovf := rfl
@[simp] theorem raise_tblrdy (st : Status) (r : Reason) (s : State) : (raise st r s).tblrdy = s.tblrdy := rfl
@[simp] theorem raise_status (st : Status) (r : Reason) (s : State) : (raise st r s).status = st := rfl
@[simp] theorem raise_reason (st : Status) (r : Reason) (s : State) : (raise st r s).reason = r := rfl
@[simp] theorem raise_rem (st : Status) (r : Reason) (s : State) : (raise st r s).rem = s.rem := rfl
@[simp] theorem raise_fcs (st : Status) (r : Reason) (s : State) : (raise st r s).fcs = s.fcs := rfl
@[simp] theorem raise_rfcs (st : Status) (r : Reason) (s : State) : (raise st r s).rfcs = s.rfcs := rfl
@[simp] theorem raise_errcnt (st : Status) (r : Reason) (s : State) : (raise st r s).errcnt = s.errcnt := rfl
@[simp] theorem raise_prod (st : Status) (r : Reason) (s : State) : (raise st r s).prod = s.prod := rfl
@[simp] theorem raise_lfk (st : Status) (r : Reason) (s : State) : (raise st r s).lfk = s.lfk := rfl
@[simp] theorem raise_lfp (st : Status) (r : Reason) (s : State) : (raise st r s).lfp = s.lfp := rfl
@[simp] theorem raise_sug (st : Status) (r : Reason) (s : State) : (raise st r s).sug = s.sug := rfl
@[simp] theorem raise_hl (st : Status) (r : Reason) (s : State) : (raise st r s).hl = s.hl := rfl
@[simp] theorem raise_tables (st : Status) (r : Reason) (s : State) : (raise st r s).tables = s.tables := rfl
@[simp] theorem raise_host (st : Status) (r : Reason) (s : State) : (raise st r s).host = s.host := rfl

/-! `complete` -/

@[simp] theorem complete_num (s : State) : (complete s).num = s.num := rfl
@[simp] theorem complete_ch (s : State) : (complete s).ch = s.ch := rfl
@[simp] theorem complete_cw (s : State) : (complete s).cw = s.cw := rfl
@[simp] theorem complete_cand (s : State) : (complete s).cand = s.cand := rfl
@[simp] theorem complete_txt (s : State) : (complete s).txt = s.txt := rfl
@[simp] theorem complete_txtlen (s : State) : (complete s).txtlen = s.txtlen := rfl
@[simp] theorem complete_recb (s : State) : (complete s).recb = s.recb := rfl
@[simp] theorem complete_rlen (s : State) : (complete s).rlen = s.rlen := rfl
@[simp] theorem complete_seq (s : State) : (complete s).seq = .idle := rfl
@[simp] theorem complete_z (s : State) : (complete s).z = s.z := rfl
@[simp] theorem complete_ovf (s : State) : (complete s).ovf = s.ovf := rfl
@[simp] theorem complete_tblrdy (s : State) : (complete s).tblrdy = s.tblrdy := rfl
@[simp] theorem complete_status (s : State) : (complete s).status = .ok := rfl
@[simp] theorem complete_reason (s : State) : (complete s).reason = .none := rfl
@[simp] theorem complete_rem (s : State) : (complete s).rem = s.rem := rfl
@[simp] theorem complete_fcs (s : State) : (complete s).fcs = s.fcs := rfl
@[simp] theorem complete_rfcs (s : State) : (complete s).rfcs = s.rfcs := rfl
@[simp] theorem complete_errcnt (s : State) : (complete s).errcnt = s.errcnt := rfl
@[simp] theorem complete_prod (s : State) : (complete s).prod = s.prod := rfl
@[simp] theorem complete_lfk (s : State) : (complete s).lfk = s.lfk := rfl
@[simp] theorem complete_lfp (s : State) : (complete s).lfp = s.lfp := rfl
@[simp] theorem complete_sug (s : State) : (complete s).sug = s.sug := rfl
@[simp] theorem complete_hl (s : State) : (complete s).hl = s.hl := rfl
@[simp] theorem complete_tables (s : State) : (complete s).tables = s.tables := rfl
@[simp] theorem complete_host (s : State) : (complete s).host = s.host := rfl

/-! `illegalCommand` -/

@[simp] theorem illegalCommand_num (s : State) : (illegalCommand s).num = s.num := rfl
@[simp] theorem illegalCommand_ch (s : State) : (illegalCommand s).ch = s.ch := rfl
@[simp] theorem illegalCommand_cw (s : State) : (illegalCommand s).cw = s.cw := rfl
@[simp] theorem illegalCommand_cand (s : State) : (illegalCommand s).cand = s.cand := rfl
@[simp] theorem illegalCommand_txt (s : State) : (illegalCommand s).txt = s.txt := rfl
@[simp] theorem illegalCommand_txtlen (s : State) : (illegalCommand s).txtlen = s.txtlen := rfl
@[simp] theorem illegalCommand_recb (s : State) : (illegalCommand s).recb = s.recb := rfl
@[simp] theorem illegalCommand_rlen (s : State) : (illegalCommand s).rlen = s.rlen := rfl
@[simp] theorem illegalCommand_seq (s : State) : (illegalCommand s).seq = s.seq := rfl
@[simp] theorem illegalCommand_z (s : State) : (illegalCommand s).z = s.z := rfl
@[simp] theorem illegalCommand_ovf (s : State) : (illegalCommand s).ovf = s.ovf := rfl
@[simp] theorem illegalCommand_tblrdy (s : State) : (illegalCommand s).tblrdy = s.tblrdy := rfl
@[simp] theorem illegalCommand_status (s : State) : (illegalCommand s).status = .illegalCmd := rfl
@[simp] theorem illegalCommand_reason (s : State) : (illegalCommand s).reason = s.reason := rfl
@[simp] theorem illegalCommand_rem (s : State) : (illegalCommand s).rem = s.rem := rfl
@[simp] theorem illegalCommand_fcs (s : State) : (illegalCommand s).fcs = s.fcs := rfl
@[simp] theorem illegalCommand_rfcs (s : State) : (illegalCommand s).rfcs = s.rfcs := rfl
@[simp] theorem illegalCommand_errcnt (s : State) : (illegalCommand s).errcnt = s.errcnt := rfl
@[simp] theorem illegalCommand_prod (s : State) : (illegalCommand s).prod = s.prod := rfl
@[simp] theorem illegalCommand_lfk (s : State) : (illegalCommand s).lfk = s.lfk := rfl
@[simp] theorem illegalCommand_lfp (s : State) : (illegalCommand s).lfp = s.lfp := rfl
@[simp] theorem illegalCommand_sug (s : State) : (illegalCommand s).sug = s.sug := rfl
@[simp] theorem illegalCommand_hl (s : State) : (illegalCommand s).hl = s.hl := rfl
@[simp] theorem illegalCommand_tables (s : State) : (illegalCommand s).tables = s.tables := rfl
@[simp] theorem illegalCommand_host (s : State) : (illegalCommand s).host = s.host := rfl

/-! `setPhase` -/

@[simp] theorem setPhase_num (p : Phase) (s : State) : (setPhase p s).num = s.num := rfl
@[simp] theorem setPhase_ch (p : Phase) (s : State) : (setPhase p s).ch = s.ch := rfl
@[simp] theorem setPhase_cw (p : Phase) (s : State) : (setPhase p s).cw = s.cw := rfl
@[simp] theorem setPhase_cand (p : Phase) (s : State) : (setPhase p s).cand = s.cand := rfl
@[simp] theorem setPhase_txt (p : Phase) (s : State) : (setPhase p s).txt = s.txt := rfl
@[simp] theorem setPhase_txtlen (p : Phase) (s : State) : (setPhase p s).txtlen = s.txtlen := rfl
@[simp] theorem setPhase_recb (p : Phase) (s : State) : (setPhase p s).recb = s.recb := rfl
@[simp] theorem setPhase_rlen (p : Phase) (s : State) : (setPhase p s).rlen = s.rlen := rfl
@[simp] theorem setPhase_seq (p : Phase) (s : State) : (setPhase p s).seq = p := rfl
@[simp] theorem setPhase_z (p : Phase) (s : State) : (setPhase p s).z = s.z := rfl
@[simp] theorem setPhase_ovf (p : Phase) (s : State) : (setPhase p s).ovf = s.ovf := rfl
@[simp] theorem setPhase_tblrdy (p : Phase) (s : State) : (setPhase p s).tblrdy = s.tblrdy := rfl
@[simp] theorem setPhase_status (p : Phase) (s : State) : (setPhase p s).status = s.status := rfl
@[simp] theorem setPhase_reason (p : Phase) (s : State) : (setPhase p s).reason = s.reason := rfl
@[simp] theorem setPhase_rem (p : Phase) (s : State) : (setPhase p s).rem = s.rem := rfl
@[simp] theorem setPhase_fcs (p : Phase) (s : State) : (setPhase p s).fcs = s.fcs := rfl
@[simp] theorem setPhase_rfcs (p : Phase) (s : State) : (setPhase p s).rfcs = s.rfcs := rfl
@[simp] theorem setPhase_errcnt (p : Phase) (s : State) : (setPhase p s).errcnt = s.errcnt := rfl
@[simp] theorem setPhase_prod (p : Phase) (s : State) : (setPhase p s).prod = s.prod := rfl
@[simp] theorem setPhase_lfk (p : Phase) (s : State) : (setPhase p s).lfk = s.lfk := rfl
@[simp] theorem setPhase_lfp (p : Phase) (s : State) : (setPhase p s).lfp = s.lfp := rfl
@[simp] theorem setPhase_sug (p : Phase) (s : State) : (setPhase p s).sug = s.sug := rfl
@[simp] theorem setPhase_hl (p : Phase) (s : State) : (setPhase p s).hl = s.hl := rfl
@[simp] theorem setPhase_tables (p : Phase) (s : State) : (setPhase p s).tables = s.tables := rfl
@[simp] theorem setPhase_host (p : Phase) (s : State) : (setPhase p s).host = s.host := rfl

/-! `answer` -/

@[simp] theorem answer_num (d : RegData) (s : State) : (answer d s).num = s.num := rfl
@[simp] theorem answer_ch (d : RegData) (s : State) : (answer d s).ch = s.ch := rfl
@[simp] theorem answer_cw (d : RegData) (s : State) : (answer d s).cw = s.cw := rfl
@[simp] theorem answer_cand (d : RegData) (s : State) : (answer d s).cand = s.cand := rfl
@[simp] theorem answer_txt (d : RegData) (s : State) : (answer d s).txt = s.txt := rfl
@[simp] theorem answer_txtlen (d : RegData) (s : State) : (answer d s).txtlen = s.txtlen := rfl
@[simp] theorem answer_recb (d : RegData) (s : State) : (answer d s).recb = s.recb := rfl
@[simp] theorem answer_rlen (d : RegData) (s : State) : (answer d s).rlen = s.rlen := rfl
@[simp] theorem answer_seq (d : RegData) (s : State) : (answer d s).seq = s.seq := rfl
@[simp] theorem answer_z (d : RegData) (s : State) : (answer d s).z = s.z := rfl
@[simp] theorem answer_ovf (d : RegData) (s : State) : (answer d s).ovf = s.ovf := rfl
@[simp] theorem answer_tblrdy (d : RegData) (s : State) : (answer d s).tblrdy = s.tblrdy := rfl
@[simp] theorem answer_status (d : RegData) (s : State) : (answer d s).status = s.status := rfl
@[simp] theorem answer_reason (d : RegData) (s : State) : (answer d s).reason = s.reason := rfl
@[simp] theorem answer_rem (d : RegData) (s : State) : (answer d s).rem = s.rem := rfl
@[simp] theorem answer_fcs (d : RegData) (s : State) : (answer d s).fcs = s.fcs := rfl
@[simp] theorem answer_rfcs (d : RegData) (s : State) : (answer d s).rfcs = s.rfcs := rfl
@[simp] theorem answer_errcnt (d : RegData) (s : State) : (answer d s).errcnt = s.errcnt := rfl
@[simp] theorem answer_prod (d : RegData) (s : State) : (answer d s).prod = s.prod := rfl
@[simp] theorem answer_lfk (d : RegData) (s : State) : (answer d s).lfk = s.lfk := rfl
@[simp] theorem answer_lfp (d : RegData) (s : State) : (answer d s).lfp = s.lfp := rfl
@[simp] theorem answer_sug (d : RegData) (s : State) : (answer d s).sug = s.sug := rfl
@[simp] theorem answer_hl (d : RegData) (s : State) : (answer d s).hl = s.hl := rfl
@[simp] theorem answer_tables (d : RegData) (s : State) : (answer d s).tables = s.tables := rfl
@[simp] theorem answer_host (d : RegData) (s : State) :
    (answer d s).host = { s.host with answers := s.host.answers ++ [d] } := rfl

/-! `setZ` -/

@[simp] theorem setZ_num (b : Bool) (s : State) : (setZ b s).num = s.num := rfl
@[simp] theorem setZ_ch (b : Bool) (s : State) : (setZ b s).ch = s.ch := rfl
@[simp] theorem setZ_cw (b : Bool) (s : State) : (setZ b s).cw = s.cw := rfl
@[simp] theorem setZ_cand (b : Bool) (s : State) : (setZ b s).cand = s.cand := rfl
@[simp] theorem setZ_txt (b : Bool) (s : State) : (setZ b s).txt = s.txt := rfl
@[simp] theorem setZ_txtlen (b : Bool) (s : State) : (setZ b s).txtlen = s.txtlen := rfl
@[simp] theorem setZ_recb (b : Bool) (s : State) : (setZ b s).recb = s.recb := rfl
@[simp] theorem setZ_rlen (b : Bool) (s : State) : (setZ b s).rlen = s.rlen := rfl
@[simp] theorem setZ_seq (b : Bool) (s : State) : (setZ b s).seq = s.seq := rfl
@[simp] theorem setZ_z (b : Bool) (s : State) : (setZ b s).z = b := rfl
@[simp] theorem setZ_ovf (b : Bool) (s : State) : (setZ b s).ovf = s.ovf := rfl
@[simp] theorem setZ_tblrdy (b : Bool) (s : State) : (setZ b s).tblrdy = s.tblrdy := rfl
@[simp] theorem setZ_status (b : Bool) (s : State) : (setZ b s).status = s.status := rfl
@[simp] theorem setZ_reason (b : Bool) (s : State) : (setZ b s).reason = s.reason := rfl
@[simp] theorem setZ_rem (b : Bool) (s : State) : (setZ b s).rem = s.rem := rfl
@[simp] theorem setZ_fcs (b : Bool) (s : State) : (setZ b s).fcs = s.fcs := rfl
@[simp] theorem setZ_rfcs (b : Bool) (s : State) : (setZ b s).rfcs = s.rfcs := rfl
@[simp] theorem setZ_errcnt (b : Bool) (s : State) : (setZ b s).errcnt = s.errcnt := rfl
@[simp] theorem setZ_prod (b : Bool) (s : State) : (setZ b s).prod = s.prod := rfl
@[simp] theorem setZ_lfk (b : Bool) (s : State) : (setZ b s).lfk = s.lfk := rfl
@[simp] theorem setZ_lfp (b : Bool) (s : State) : (setZ b s).lfp = s.lfp := rfl
@[simp] theorem setZ_sug (b : Bool) (s : State) : (setZ b s).sug = s.sug := rfl
@[simp] theorem setZ_hl (b : Bool) (s : State) : (setZ b s).hl = s.hl := rfl
@[simp] theorem setZ_tables (b : Bool) (s : State) : (setZ b s).tables = s.tables := rfl
@[simp] theorem setZ_host (b : Bool) (s : State) : (setZ b s).host = s.host := rfl

/-! `setOvf` -/

@[simp] theorem setOvf_num (b : Bool) (s : State) : (setOvf b s).num = s.num := rfl
@[simp] theorem setOvf_ch (b : Bool) (s : State) : (setOvf b s).ch = s.ch := rfl
@[simp] theorem setOvf_cw (b : Bool) (s : State) : (setOvf b s).cw = s.cw := rfl
@[simp] theorem setOvf_cand (b : Bool) (s : State) : (setOvf b s).cand = s.cand := rfl
@[simp] theorem setOvf_txt (b : Bool) (s : State) : (setOvf b s).txt = s.txt := rfl
@[simp] theorem setOvf_txtlen (b : Bool) (s : State) : (setOvf b s).txtlen = s.txtlen := rfl
@[simp] theorem setOvf_recb (b : Bool) (s : State) : (setOvf b s).recb = s.recb := rfl
@[simp] theorem setOvf_rlen (b : Bool) (s : State) : (setOvf b s).rlen = s.rlen := rfl
@[simp] theorem setOvf_seq (b : Bool) (s : State) : (setOvf b s).seq = s.seq := rfl
@[simp] theorem setOvf_z (b : Bool) (s : State) : (setOvf b s).z = s.z := rfl
@[simp] theorem setOvf_ovf (b : Bool) (s : State) : (setOvf b s).ovf = b := rfl
@[simp] theorem setOvf_tblrdy (b : Bool) (s : State) : (setOvf b s).tblrdy = s.tblrdy := rfl
@[simp] theorem setOvf_status (b : Bool) (s : State) : (setOvf b s).status = s.status := rfl
@[simp] theorem setOvf_reason (b : Bool) (s : State) : (setOvf b s).reason = s.reason := rfl
@[simp] theorem setOvf_rem (b : Bool) (s : State) : (setOvf b s).rem = s.rem := rfl
@[simp] theorem setOvf_fcs (b : Bool) (s : State) : (setOvf b s).fcs = s.fcs := rfl
@[simp] theorem setOvf_rfcs (b : Bool) (s : State) : (setOvf b s).rfcs = s.rfcs := rfl
@[simp] theorem setOvf_errcnt (b : Bool) (s : State) : (setOvf b s).errcnt = s.errcnt := rfl
@[simp] theorem setOvf_prod (b : Bool) (s : State) : (setOvf b s).prod = s.prod := rfl
@[simp] theorem setOvf_lfk (b : Bool) (s : State) : (setOvf b s).lfk = s.lfk := rfl
@[simp] theorem setOvf_lfp (b : Bool) (s : State) : (setOvf b s).lfp = s.lfp := rfl
@[simp] theorem setOvf_sug (b : Bool) (s : State) : (setOvf b s).sug = s.sug := rfl
@[simp] theorem setOvf_hl (b : Bool) (s : State) : (setOvf b s).hl = s.hl := rfl
@[simp] theorem setOvf_tables (b : Bool) (s : State) : (setOvf b s).tables = s.tables := rfl
@[simp] theorem setOvf_host (b : Bool) (s : State) : (setOvf b s).host = s.host := rfl

/-! `ensureTables` -/

@[simp] theorem ensureTables_num (s : State) : (ensureTables s).num = s.num := rfl
@[simp] theorem ensureTables_ch (s : State) : (ensureTables s).ch = s.ch := rfl
@[simp] theorem ensureTables_cw (s : State) : (ensureTables s).cw = s.cw := rfl
@[simp] theorem ensureTables_cand (s : State) : (ensureTables s).cand = s.cand := rfl
@[simp] theorem ensureTables_txt (s : State) : (ensureTables s).txt = s.txt := rfl
@[simp] theorem ensureTables_txtlen (s : State) : (ensureTables s).txtlen = s.txtlen := rfl
@[simp] theorem ensureTables_recb (s : State) : (ensureTables s).recb = s.recb := rfl
@[simp] theorem ensureTables_rlen (s : State) : (ensureTables s).rlen = s.rlen := rfl
@[simp] theorem ensureTables_seq (s : State) : (ensureTables s).seq = s.seq := rfl
@[simp] theorem ensureTables_z (s : State) : (ensureTables s).z = s.z := rfl
@[simp] theorem ensureTables_ovf (s : State) : (ensureTables s).ovf = s.ovf := rfl
@[simp] theorem ensureTables_tblrdy (s : State) : (ensureTables s).tblrdy = true := rfl
@[simp] theorem ensureTables_status (s : State) : (ensureTables s).status = s.status := rfl
@[simp] theorem ensureTables_reason (s : State) : (ensureTables s).reason = s.reason := rfl
@[simp] theorem ensureTables_rem (s : State) : (ensureTables s).rem = s.rem := rfl
@[simp] theorem ensureTables_fcs (s : State) : (ensureTables s).fcs = s.fcs := rfl
@[simp] theorem ensureTables_rfcs (s : State) : (ensureTables s).rfcs = s.rfcs := rfl
@[simp] theorem ensureTables_errcnt (s : State) : (ensureTables s).errcnt = s.errcnt := rfl
@[simp] theorem ensureTables_prod (s : State) : (ensureTables s).prod = s.prod := rfl
@[simp] theorem ensureTables_lfk (s : State) : (ensureTables s).lfk = s.lfk := rfl
@[simp] theorem ensureTables_lfp (s : State) : (ensureTables s).lfp = s.lfp := rfl
@[simp] theorem ensureTables_sug (s : State) : (ensureTables s).sug = s.sug := rfl
@[simp] theorem ensureTables_hl (s : State) : (ensureTables s).hl = s.hl := rfl
@[simp] theorem ensureTables_tables (s : State) :
    (ensureTables s).tables = if s.tblrdy then s.tables else builtTables := rfl
@[simp] theorem ensureTables_host (s : State) : (ensureTables s).host = s.host := rfl

/-! `putSymbols` -/

@[simp] theorem putSymbols_num (sy : Candidate) (s : State) : (putSymbols sy s).num = s.num := rfl
@[simp] theorem putSymbols_ch (sy : Candidate) (s : State) : (putSymbols sy s).ch = s.ch := rfl
@[simp] theorem putSymbols_cw (sy : Candidate) (s : State) : (putSymbols sy s).cw = s.cw := rfl
@[simp] theorem putSymbols_cand (sy : Candidate) (s : State) : (putSymbols sy s).cand = sy := rfl
@[simp] theorem putSymbols_txt (sy : Candidate) (s : State) :
    (putSymbols sy s).txt = writeFront s.txt (symsToText sy) := rfl
@[simp] theorem putSymbols_txtlen (sy : Candidate) (s : State) : (putSymbols sy s).txtlen = 65 := rfl
@[simp] theorem putSymbols_recb (sy : Candidate) (s : State) : (putSymbols sy s).recb = s.recb := rfl
@[simp] theorem putSymbols_rlen (sy : Candidate) (s : State) : (putSymbols sy s).rlen = s.rlen := rfl
@[simp] theorem putSymbols_seq (sy : Candidate) (s : State) : (putSymbols sy s).seq = s.seq := rfl
@[simp] theorem putSymbols_z (sy : Candidate) (s : State) : (putSymbols sy s).z = s.z := rfl
@[simp] theorem putSymbols_ovf (sy : Candidate) (s : State) : (putSymbols sy s).ovf = s.ovf := rfl
@[simp] theorem putSymbols_tblrdy (sy : Candidate) (s : State) : (putSymbols sy s).tblrdy = s.tblrdy := rfl
@[simp] theorem putSymbols_status (sy : Candidate) (s : State) : (putSymbols sy s).status = s.status := rfl
@[simp] theorem putSymbols_reason (sy : Candidate) (s : State) : (putSymbols sy s).reason = s.reason := rfl
@[simp] theorem putSymbols_rem (sy : Candidate) (s : State) : (putSymbols sy s).rem = s.rem := rfl
@[simp] theorem putSymbols_fcs (sy : Candidate) (s : State) : (putSymbols sy s).fcs = s.fcs := rfl
@[simp] theorem putSymbols_rfcs (sy : Candidate) (s : State) : (putSymbols sy s).rfcs = s.rfcs := rfl
@[simp] theorem putSymbols_errcnt (sy : Candidate) (s : State) : (putSymbols sy s).errcnt = s.errcnt := rfl
@[simp] theorem putSymbols_prod (sy : Candidate) (s : State) : (putSymbols sy s).prod = s.prod := rfl
@[simp] theorem putSymbols_lfk (sy : Candidate) (s : State) : (putSymbols sy s).lfk = s.lfk := rfl
@[simp] theorem putSymbols_lfp (sy : Candidate) (s : State) : (putSymbols sy s).lfp = s.lfp := rfl
@[simp] theorem putSymbols_sug (sy : Candidate) (s : State) : (putSymbols sy s).sug = s.sug := rfl
@[simp] theorem putSymbols_hl (sy : Candidate) (s : State) : (putSymbols sy s).hl = s.hl := rfl
@[simp] theorem putSymbols_tables (sy : Candidate) (s : State) : (putSymbols sy s).tables = s.tables := rfl
@[simp] theorem putSymbols_host (sy : Candidate) (s : State) : (putSymbols sy s).host = s.host := rfl

/-! `writeRecord` -/

@[simp] theorem writeRecord_num (r : Record) (s : State) : (writeRecord r s).num = s.num := rfl
@[simp] theorem writeRecord_ch (r : Record) (s : State) : (writeRecord r s).ch = s.ch := rfl
@[simp] theorem writeRecord_cw (r : Record) (s : State) : (writeRecord r s).cw = s.cw := rfl
@[simp] theorem writeRecord_cand (r : Record) (s : State) : (writeRecord r s).cand = s.cand := rfl
@[simp] theorem writeRecord_txt (r : Record) (s : State) : (writeRecord r s).txt = s.txt := rfl
@[simp] theorem writeRecord_txtlen (r : Record) (s : State) : (writeRecord r s).txtlen = s.txtlen := rfl
@[simp] theorem writeRecord_recb (r : Record) (s : State) :
    (writeRecord r s).recb = Vector.ofFn fun f => writeFront s.recb[f] (recordFields r)[f] := rfl
@[simp] theorem writeRecord_rlen (r : Record) (s : State) :
    (writeRecord r s).rlen = Vector.ofFn fun f => BitVec.ofNat 6 (recordFields r)[f].length := rfl
@[simp] theorem writeRecord_seq (r : Record) (s : State) : (writeRecord r s).seq = s.seq := rfl
@[simp] theorem writeRecord_z (r : Record) (s : State) : (writeRecord r s).z = s.z := rfl
@[simp] theorem writeRecord_ovf (r : Record) (s : State) : (writeRecord r s).ovf = s.ovf := rfl
@[simp] theorem writeRecord_tblrdy (r : Record) (s : State) : (writeRecord r s).tblrdy = s.tblrdy := rfl
@[simp] theorem writeRecord_status (r : Record) (s : State) : (writeRecord r s).status = s.status := rfl
@[simp] theorem writeRecord_reason (r : Record) (s : State) : (writeRecord r s).reason = s.reason := rfl
@[simp] theorem writeRecord_rem (r : Record) (s : State) : (writeRecord r s).rem = s.rem := rfl
@[simp] theorem writeRecord_fcs (r : Record) (s : State) : (writeRecord r s).fcs = s.fcs := rfl
@[simp] theorem writeRecord_rfcs (r : Record) (s : State) : (writeRecord r s).rfcs = s.rfcs := rfl
@[simp] theorem writeRecord_errcnt (r : Record) (s : State) : (writeRecord r s).errcnt = s.errcnt := rfl
@[simp] theorem writeRecord_prod (r : Record) (s : State) : (writeRecord r s).prod = s.prod := rfl
@[simp] theorem writeRecord_lfk (r : Record) (s : State) : (writeRecord r s).lfk = s.lfk := rfl
@[simp] theorem writeRecord_lfp (r : Record) (s : State) : (writeRecord r s).lfp = s.lfp := rfl
@[simp] theorem writeRecord_sug (r : Record) (s : State) : (writeRecord r s).sug = s.sug := rfl
@[simp] theorem writeRecord_hl (r : Record) (s : State) : (writeRecord r s).hl = s.hl := rfl
@[simp] theorem writeRecord_tables (r : Record) (s : State) : (writeRecord r s).tables = s.tables := rfl
@[simp] theorem writeRecord_host (r : Record) (s : State) : (writeRecord r s).host = s.host := rfl

/-! `commitDecoded` -/

@[simp] theorem commitDecoded_num (c : Candidate) (r : Decoded) (s : State) : (commitDecoded c r s).num = r.num := rfl
@[simp] theorem commitDecoded_ch (c : Candidate) (r : Decoded) (s : State) : (commitDecoded c r s).ch = r.ch := rfl
@[simp] theorem commitDecoded_cw (c : Candidate) (r : Decoded) (s : State) : (commitDecoded c r s).cw = r.cw := rfl
@[simp] theorem commitDecoded_cand (c : Candidate) (r : Decoded) (s : State) : (commitDecoded c r s).cand = c := rfl
@[simp] theorem commitDecoded_txt (c : Candidate) (r : Decoded) (s : State) : (commitDecoded c r s).txt = s.txt := rfl
@[simp] theorem commitDecoded_txtlen (c : Candidate) (r : Decoded) (s : State) :
    (commitDecoded c r s).txtlen = s.txtlen := rfl
@[simp] theorem commitDecoded_recb (c : Candidate) (r : Decoded) (s : State) :
    (commitDecoded c r s).recb = (writeRecord r.record s).recb := rfl
@[simp] theorem commitDecoded_rlen (c : Candidate) (r : Decoded) (s : State) :
    (commitDecoded c r s).rlen = (writeRecord r.record s).rlen := rfl
@[simp] theorem commitDecoded_seq (c : Candidate) (r : Decoded) (s : State) : (commitDecoded c r s).seq = s.seq := rfl
@[simp] theorem commitDecoded_z (c : Candidate) (r : Decoded) (s : State) : (commitDecoded c r s).z = s.z := rfl
@[simp] theorem commitDecoded_ovf (c : Candidate) (r : Decoded) (s : State) : (commitDecoded c r s).ovf = s.ovf := rfl
@[simp] theorem commitDecoded_tblrdy (c : Candidate) (r : Decoded) (s : State) :
    (commitDecoded c r s).tblrdy = s.tblrdy := rfl
@[simp] theorem commitDecoded_status (c : Candidate) (r : Decoded) (s : State) :
    (commitDecoded c r s).status = s.status := rfl
@[simp] theorem commitDecoded_reason (c : Candidate) (r : Decoded) (s : State) :
    (commitDecoded c r s).reason = s.reason := rfl
@[simp] theorem commitDecoded_rem (c : Candidate) (r : Decoded) (s : State) : (commitDecoded c r s).rem = s.rem := rfl
@[simp] theorem commitDecoded_fcs (c : Candidate) (r : Decoded) (s : State) : (commitDecoded c r s).fcs = r.fcs := rfl
@[simp] theorem commitDecoded_rfcs (c : Candidate) (r : Decoded) (s : State) :
    (commitDecoded c r s).rfcs = r.fcs := rfl
@[simp] theorem commitDecoded_errcnt (c : Candidate) (r : Decoded) (s : State) :
    (commitDecoded c r s).errcnt = s.errcnt := rfl
@[simp] theorem commitDecoded_prod (c : Candidate) (r : Decoded) (s : State) :
    (commitDecoded c r s).prod = s.prod := rfl
@[simp] theorem commitDecoded_lfk (c : Candidate) (r : Decoded) (s : State) : (commitDecoded c r s).lfk = s.lfk := rfl
@[simp] theorem commitDecoded_lfp (c : Candidate) (r : Decoded) (s : State) : (commitDecoded c r s).lfp = s.lfp := rfl
@[simp] theorem commitDecoded_sug (c : Candidate) (r : Decoded) (s : State) : (commitDecoded c r s).sug = s.sug := rfl
@[simp] theorem commitDecoded_hl (c : Candidate) (r : Decoded) (s : State) : (commitDecoded c r s).hl = s.hl := rfl
@[simp] theorem commitDecoded_tables (c : Candidate) (r : Decoded) (s : State) :
    (commitDecoded c r s).tables = s.tables := rfl
@[simp] theorem commitDecoded_host (c : Candidate) (r : Decoded) (s : State) :
    (commitDecoded c r s).host = s.host := rfl

/-! `clearDecodeOutputs` -/

@[simp] theorem clearDecodeOutputs_num (s : State) : (clearDecodeOutputs s).num = s.num := rfl
@[simp] theorem clearDecodeOutputs_ch (s : State) : (clearDecodeOutputs s).ch = s.ch := rfl
@[simp] theorem clearDecodeOutputs_cw (s : State) : (clearDecodeOutputs s).cw = s.cw := rfl
@[simp] theorem clearDecodeOutputs_cand (s : State) : (clearDecodeOutputs s).cand = s.cand := rfl
@[simp] theorem clearDecodeOutputs_txt (s : State) : (clearDecodeOutputs s).txt = s.txt := rfl
@[simp] theorem clearDecodeOutputs_txtlen (s : State) : (clearDecodeOutputs s).txtlen = s.txtlen := rfl
@[simp] theorem clearDecodeOutputs_recb (s : State) : (clearDecodeOutputs s).recb = s.recb := rfl
@[simp] theorem clearDecodeOutputs_rlen (s : State) : (clearDecodeOutputs s).rlen = Vector.replicate 7 0 := rfl
@[simp] theorem clearDecodeOutputs_seq (s : State) : (clearDecodeOutputs s).seq = s.seq := rfl
@[simp] theorem clearDecodeOutputs_z (s : State) : (clearDecodeOutputs s).z = s.z := rfl
@[simp] theorem clearDecodeOutputs_ovf (s : State) : (clearDecodeOutputs s).ovf = s.ovf := rfl
@[simp] theorem clearDecodeOutputs_tblrdy (s : State) : (clearDecodeOutputs s).tblrdy = s.tblrdy := rfl
@[simp] theorem clearDecodeOutputs_status (s : State) : (clearDecodeOutputs s).status = s.status := rfl
@[simp] theorem clearDecodeOutputs_reason (s : State) : (clearDecodeOutputs s).reason = s.reason := rfl
@[simp] theorem clearDecodeOutputs_rem (s : State) : (clearDecodeOutputs s).rem = s.rem := rfl
@[simp] theorem clearDecodeOutputs_fcs (s : State) : (clearDecodeOutputs s).fcs = s.fcs := rfl
@[simp] theorem clearDecodeOutputs_rfcs (s : State) : (clearDecodeOutputs s).rfcs = s.rfcs := rfl
@[simp] theorem clearDecodeOutputs_errcnt (s : State) : (clearDecodeOutputs s).errcnt = 0 := rfl
@[simp] theorem clearDecodeOutputs_prod (s : State) : (clearDecodeOutputs s).prod = 0 := rfl
@[simp] theorem clearDecodeOutputs_lfk (s : State) : (clearDecodeOutputs s).lfk = .none := rfl
@[simp] theorem clearDecodeOutputs_lfp (s : State) : (clearDecodeOutputs s).lfp = 0 := rfl
@[simp] theorem clearDecodeOutputs_sug (s : State) : (clearDecodeOutputs s).sug = Vector.replicate 65 0 := rfl
@[simp] theorem clearDecodeOutputs_hl (s : State) : (clearDecodeOutputs s).hl = Vector.replicate 65 false := rfl
@[simp] theorem clearDecodeOutputs_tables (s : State) : (clearDecodeOutputs s).tables = s.tables := rfl
@[simp] theorem clearDecodeOutputs_host (s : State) : (clearDecodeOutputs s).host = s.host := rfl

/-! `writeDiagnostics` -/

@[simp] theorem writeDiagnostics_num (ch : Chars) (s : State) : (writeDiagnostics ch s).num = s.num := rfl
@[simp] theorem writeDiagnostics_ch (ch : Chars) (s : State) : (writeDiagnostics ch s).ch = s.ch := rfl
@[simp] theorem writeDiagnostics_cw (ch : Chars) (s : State) : (writeDiagnostics ch s).cw = s.cw := rfl
@[simp] theorem writeDiagnostics_cand (ch : Chars) (s : State) : (writeDiagnostics ch s).cand = s.cand := rfl
@[simp] theorem writeDiagnostics_txt (ch : Chars) (s : State) : (writeDiagnostics ch s).txt = s.txt := rfl
@[simp] theorem writeDiagnostics_txtlen (ch : Chars) (s : State) : (writeDiagnostics ch s).txtlen = s.txtlen := rfl
@[simp] theorem writeDiagnostics_recb (ch : Chars) (s : State) : (writeDiagnostics ch s).recb = s.recb := rfl
@[simp] theorem writeDiagnostics_rlen (ch : Chars) (s : State) : (writeDiagnostics ch s).rlen = s.rlen := rfl
@[simp] theorem writeDiagnostics_seq (ch : Chars) (s : State) : (writeDiagnostics ch s).seq = s.seq := rfl
@[simp] theorem writeDiagnostics_z (ch : Chars) (s : State) : (writeDiagnostics ch s).z = s.z := rfl
@[simp] theorem writeDiagnostics_ovf (ch : Chars) (s : State) : (writeDiagnostics ch s).ovf = s.ovf := rfl
@[simp] theorem writeDiagnostics_tblrdy (ch : Chars) (s : State) : (writeDiagnostics ch s).tblrdy = s.tblrdy := rfl
@[simp] theorem writeDiagnostics_status (ch : Chars) (s : State) : (writeDiagnostics ch s).status = s.status := rfl
@[simp] theorem writeDiagnostics_reason (ch : Chars) (s : State) : (writeDiagnostics ch s).reason = s.reason := rfl
@[simp] theorem writeDiagnostics_rem (ch : Chars) (s : State) : (writeDiagnostics ch s).rem = s.rem := rfl
@[simp] theorem writeDiagnostics_fcs (ch : Chars) (s : State) : (writeDiagnostics ch s).fcs = s.fcs := rfl
@[simp] theorem writeDiagnostics_rfcs (ch : Chars) (s : State) : (writeDiagnostics ch s).rfcs = s.rfcs := rfl
@[simp] theorem writeDiagnostics_errcnt (ch : Chars) (s : State) :
    (writeDiagnostics ch s).errcnt = BitVec.ofNat 4 (missCount s.tables ch) := rfl
@[simp] theorem writeDiagnostics_prod (ch : Chars) (s : State) :
    (writeDiagnostics ch s).prod = (feasible s.tables ch).2 := rfl
@[simp] theorem writeDiagnostics_lfk (ch : Chars) (s : State) : (writeDiagnostics ch s).lfk = s.lfk := rfl
@[simp] theorem writeDiagnostics_lfp (ch : Chars) (s : State) : (writeDiagnostics ch s).lfp = s.lfp := rfl
@[simp] theorem writeDiagnostics_sug (ch : Chars) (s : State) : (writeDiagnostics ch s).sug = s.sug := rfl
@[simp] theorem writeDiagnostics_hl (ch : Chars) (s : State) : (writeDiagnostics ch s).hl = s.hl := rfl
@[simp] theorem writeDiagnostics_tables (ch : Chars) (s : State) : (writeDiagnostics ch s).tables = s.tables := rfl
@[simp] theorem writeDiagnostics_host (ch : Chars) (s : State) : (writeDiagnostics ch s).host = s.host := rfl

/-! `commitRepaired` -/

@[simp] theorem commitRepaired_num (c : Corrected) (r : Decoded) (s : State) :
    (commitRepaired c r s).num = r.num := rfl
@[simp] theorem commitRepaired_ch (c : Corrected) (r : Decoded) (s : State) : (commitRepaired c r s).ch = r.ch := rfl
@[simp] theorem commitRepaired_cw (c : Corrected) (r : Decoded) (s : State) : (commitRepaired c r s).cw = r.cw := rfl
@[simp] theorem commitRepaired_cand (c : Corrected) (r : Decoded) (s : State) :
    (commitRepaired c r s).cand = c.cand := rfl
@[simp] theorem commitRepaired_txt (c : Corrected) (r : Decoded) (s : State) :
    (commitRepaired c r s).txt = s.txt := rfl
@[simp] theorem commitRepaired_txtlen (c : Corrected) (r : Decoded) (s : State) :
    (commitRepaired c r s).txtlen = s.txtlen := rfl
@[simp] theorem commitRepaired_recb (c : Corrected) (r : Decoded) (s : State) :
    (commitRepaired c r s).recb = (writeRecord r.record s).recb := rfl
@[simp] theorem commitRepaired_rlen (c : Corrected) (r : Decoded) (s : State) :
    (commitRepaired c r s).rlen = (writeRecord r.record s).rlen := rfl
@[simp] theorem commitRepaired_seq (c : Corrected) (r : Decoded) (s : State) :
    (commitRepaired c r s).seq = s.seq := rfl
@[simp] theorem commitRepaired_z (c : Corrected) (r : Decoded) (s : State) : (commitRepaired c r s).z = s.z := rfl
@[simp] theorem commitRepaired_ovf (c : Corrected) (r : Decoded) (s : State) :
    (commitRepaired c r s).ovf = s.ovf := rfl
@[simp] theorem commitRepaired_tblrdy (c : Corrected) (r : Decoded) (s : State) :
    (commitRepaired c r s).tblrdy = s.tblrdy := rfl
@[simp] theorem commitRepaired_status (c : Corrected) (r : Decoded) (s : State) :
    (commitRepaired c r s).status = s.status := rfl
@[simp] theorem commitRepaired_reason (c : Corrected) (r : Decoded) (s : State) :
    (commitRepaired c r s).reason = s.reason := rfl
@[simp] theorem commitRepaired_rem (c : Corrected) (r : Decoded) (s : State) :
    (commitRepaired c r s).rem = s.rem := rfl
@[simp] theorem commitRepaired_fcs (c : Corrected) (r : Decoded) (s : State) :
    (commitRepaired c r s).fcs = r.fcs := rfl
@[simp] theorem commitRepaired_rfcs (c : Corrected) (r : Decoded) (s : State) :
    (commitRepaired c r s).rfcs = r.fcs := rfl
@[simp] theorem commitRepaired_errcnt (c : Corrected) (r : Decoded) (s : State) :
    (commitRepaired c r s).errcnt = s.errcnt := rfl
@[simp] theorem commitRepaired_prod (c : Corrected) (r : Decoded) (s : State) :
    (commitRepaired c r s).prod = s.prod := rfl
@[simp] theorem commitRepaired_lfk (c : Corrected) (r : Decoded) (s : State) :
    (commitRepaired c r s).lfk = c.kind := rfl
@[simp] theorem commitRepaired_lfp (c : Corrected) (r : Decoded) (s : State) :
    (commitRepaired c r s).lfp = BitVec.ofNat 7 c.pos := rfl
@[simp] theorem commitRepaired_sug (c : Corrected) (r : Decoded) (s : State) :
    (commitRepaired c r s).sug = Vector.ofFn fun i => symbolByte (charsToSyms r.ch)[i] := rfl
@[simp] theorem commitRepaired_hl (c : Corrected) (r : Decoded) (s : State) :
    (commitRepaired c r s).hl = Vector.ofFn fun i => c.cand[i] != (charsToSyms r.ch)[i] := rfl
@[simp] theorem commitRepaired_tables (c : Corrected) (r : Decoded) (s : State) :
    (commitRepaired c r s).tables = s.tables := rfl
@[simp] theorem commitRepaired_host (c : Corrected) (r : Decoded) (s : State) :
    (commitRepaired c r s).host = s.host := rfl

/-! `commitLength` -/

@[simp] theorem commitLength_num (c : Corrected) (s : State) : (commitLength c s).num = s.num := rfl
@[simp] theorem commitLength_ch (c : Corrected) (s : State) : (commitLength c s).ch = s.ch := rfl
@[simp] theorem commitLength_cw (c : Corrected) (s : State) : (commitLength c s).cw = s.cw := rfl
@[simp] theorem commitLength_cand (c : Corrected) (s : State) : (commitLength c s).cand = c.cand := rfl
@[simp] theorem commitLength_txt (c : Corrected) (s : State) : (commitLength c s).txt = s.txt := rfl
@[simp] theorem commitLength_txtlen (c : Corrected) (s : State) : (commitLength c s).txtlen = s.txtlen := rfl
@[simp] theorem commitLength_recb (c : Corrected) (s : State) : (commitLength c s).recb = s.recb := rfl
@[simp] theorem commitLength_rlen (c : Corrected) (s : State) : (commitLength c s).rlen = s.rlen := rfl
@[simp] theorem commitLength_seq (c : Corrected) (s : State) : (commitLength c s).seq = s.seq := rfl
@[simp] theorem commitLength_z (c : Corrected) (s : State) : (commitLength c s).z = s.z := rfl
@[simp] theorem commitLength_ovf (c : Corrected) (s : State) : (commitLength c s).ovf = s.ovf := rfl
@[simp] theorem commitLength_tblrdy (c : Corrected) (s : State) : (commitLength c s).tblrdy = s.tblrdy := rfl
@[simp] theorem commitLength_status (c : Corrected) (s : State) : (commitLength c s).status = s.status := rfl
@[simp] theorem commitLength_reason (c : Corrected) (s : State) : (commitLength c s).reason = s.reason := rfl
@[simp] theorem commitLength_rem (c : Corrected) (s : State) : (commitLength c s).rem = s.rem := rfl
@[simp] theorem commitLength_fcs (c : Corrected) (s : State) : (commitLength c s).fcs = s.fcs := rfl
@[simp] theorem commitLength_rfcs (c : Corrected) (s : State) : (commitLength c s).rfcs = s.rfcs := rfl
@[simp] theorem commitLength_errcnt (c : Corrected) (s : State) :
    (commitLength c s).errcnt = BitVec.ofNat 4 c.misses := rfl
@[simp] theorem commitLength_prod (c : Corrected) (s : State) : (commitLength c s).prod = s.prod := rfl
@[simp] theorem commitLength_lfk (c : Corrected) (s : State) : (commitLength c s).lfk = c.kind := rfl
@[simp] theorem commitLength_lfp (c : Corrected) (s : State) : (commitLength c s).lfp = BitVec.ofNat 7 c.pos := rfl
@[simp] theorem commitLength_sug (c : Corrected) (s : State) : (commitLength c s).sug = s.sug := rfl
@[simp] theorem commitLength_hl (c : Corrected) (s : State) : (commitLength c s).hl = s.hl := rfl
@[simp] theorem commitLength_tables (c : Corrected) (s : State) : (commitLength c s).tables = s.tables := rfl
@[simp] theorem commitLength_host (c : Corrected) (s : State) : (commitLength c s).host = s.host := rfl

/-! `resetBlock`: the registers are those of `State.reset`. -/

@[simp] theorem resetBlock_num (s : State) : (resetBlock s).num = State.reset.num := rfl
@[simp] theorem resetBlock_ch (s : State) : (resetBlock s).ch = State.reset.ch := rfl
@[simp] theorem resetBlock_cw (s : State) : (resetBlock s).cw = State.reset.cw := rfl
@[simp] theorem resetBlock_cand (s : State) : (resetBlock s).cand = State.reset.cand := rfl
@[simp] theorem resetBlock_txt (s : State) : (resetBlock s).txt = State.reset.txt := rfl
@[simp] theorem resetBlock_txtlen (s : State) : (resetBlock s).txtlen = State.reset.txtlen := rfl
@[simp] theorem resetBlock_recb (s : State) : (resetBlock s).recb = State.reset.recb := rfl
@[simp] theorem resetBlock_rlen (s : State) : (resetBlock s).rlen = State.reset.rlen := rfl
@[simp] theorem resetBlock_seq (s : State) : (resetBlock s).seq = State.reset.seq := rfl
@[simp] theorem resetBlock_z (s : State) : (resetBlock s).z = State.reset.z := rfl
@[simp] theorem resetBlock_ovf (s : State) : (resetBlock s).ovf = State.reset.ovf := rfl
@[simp] theorem resetBlock_tblrdy (s : State) : (resetBlock s).tblrdy = State.reset.tblrdy := rfl
@[simp] theorem resetBlock_status (s : State) : (resetBlock s).status = State.reset.status := rfl
@[simp] theorem resetBlock_reason (s : State) : (resetBlock s).reason = State.reset.reason := rfl
@[simp] theorem resetBlock_rem (s : State) : (resetBlock s).rem = State.reset.rem := rfl
@[simp] theorem resetBlock_fcs (s : State) : (resetBlock s).fcs = State.reset.fcs := rfl
@[simp] theorem resetBlock_rfcs (s : State) : (resetBlock s).rfcs = State.reset.rfcs := rfl
@[simp] theorem resetBlock_errcnt (s : State) : (resetBlock s).errcnt = State.reset.errcnt := rfl
@[simp] theorem resetBlock_prod (s : State) : (resetBlock s).prod = State.reset.prod := rfl
@[simp] theorem resetBlock_lfk (s : State) : (resetBlock s).lfk = State.reset.lfk := rfl
@[simp] theorem resetBlock_lfp (s : State) : (resetBlock s).lfp = State.reset.lfp := rfl
@[simp] theorem resetBlock_sug (s : State) : (resetBlock s).sug = State.reset.sug := rfl
@[simp] theorem resetBlock_hl (s : State) : (resetBlock s).hl = State.reset.hl := rfl
@[simp] theorem resetBlock_tables (s : State) : (resetBlock s).tables = State.reset.tables := rfl
@[simp] theorem resetBlock_host (s : State) : (resetBlock s).host = s.host := rfl

end Sys2Proof.Machine
end

