-- ==== Sys2Proof/Laws/Step.lean ====
section
/-! SUPPORT. Laws/Step.lean: what a step can do, said once. -/

namespace Sys2Proof.Machine

/-- A step waits, or takes the first thing presented and performs it. -/
theorem step_cases (s t : State) (h : step s = .next t) :
    (s.host.pending = [] ∧ t = s)
      ∨ ∃ i rest, s.host.pending = i :: rest
          ∧ perform i { s with host := { s.host with pending := rest } } = .next t := by
  unfold step at h
  cases hp : s.host.pending with
  | nil =>
    rw [takeInput_of_nil s hp] at h
    cases h
    exact .inl ⟨rfl, rfl⟩
  | cons i rest =>
    rw [takeInput_of_cons s i rest hp] at h
    exact .inr ⟨i, rest, rfl, h⟩

/-- Every command answers a next state (R301, R352). -/
theorem exec_next (i : Instr) (s : State) : ∃ t, exec i s = .next t := by
  cases i with
  | mpdivmod a =>
    show ∃ t, execMpdivmod a s = .next t
    unfold execMpdivmod
    split <;> exact ⟨_, rfl⟩
  | loadtxt =>
    show ∃ t, execLoadtxt s = .next t
    unfold execLoadtxt
    split
    · exact ⟨_, rfl⟩
    · split <;> exact ⟨_, rfl⟩
  | cwenc =>
    show ∃ t, execCwenc s = .next t
    unfold execCwenc
    simp only
    split <;> exact ⟨_, rfl⟩
  | cwdec =>
    show ∃ t, execCwdec s = .next t
    unfold execCwdec
    simp only
    split <;> exact ⟨_, rfl⟩
  | pack =>
    show ∃ t, execPack s = .next t
    unfold execPack
    split <;> exact ⟨_, rfl⟩
  | unpack =>
    show ∃ t, execUnpack s = .next t
    unfold execUnpack
    simp only
    split <;> exact ⟨_, rfl⟩
  | encode =>
    show ∃ t, execEncode s = .next t
    unfold execEncode
    simp only
    split
    · exact ⟨_, rfl⟩
    · split <;> exact ⟨_, rfl⟩
  | tblbuild | mpclr | mpisz | mpadd _ | mpsub _ | mpmuladd _ _ | fcscalc | permfwd | perminv | flipad
  | decode | lenfix | bitfix => exact ⟨_, rfl⟩

end Sys2Proof.Machine
end

