-- ==== Sys2Proof/Laws/Tables.lean ====
section
/-! SUPPORT. Laws/Tables.lean: the table operations of Machine/Tables.lean (`40_tables.md` R121 to R127). -/

namespace Sys2Proof.Machine

/-- R8: `rev13(v)[i] = v[12-i]`. -/
theorem testBit_moveBits (k v acc i : Nat) :
    (moveBits k v acc).testBit i = if i < k then v.testBit (k - 1 - i) else acc.testBit (i - k) := by
  induction k generalizing v acc with
  | zero => simp [moveBits]
  | succ k ih =>
    rw [moveBits, ih]
    by_cases h1 : i < k
    · rw [if_pos h1, if_pos (by omega), Nat.testBit_div_two, show k + 1 - 1 - i = k - 1 - i + 1 by omega]
    · rw [if_neg h1]
      by_cases h2 : i = k
      · subst h2
        rw [if_pos (by omega), show i + 1 - 1 - i = 0 by omega, Nat.sub_self, Nat.testBit_zero, Nat.testBit_zero]
        congr 1
        apply propext
        omega
      · rw [if_neg (by omega), show i - k = (i - (k + 1)) + 1 by omega, Nat.testBit_succ]
        congr 1
        omega

/-- R8, R121: the reversal, bit by bit. -/
theorem getLsbD_rev13 (v : Char13) (i : Nat) (h : i < 13) : (rev13 v).getLsbD i = v.getLsbD (12 - i) := by
  rw [rev13, BitVec.getLsbD_ofNat, testBit_moveBits]
  simp [h, BitVec.getLsbD]

theorem rev13_rev13 (v : Char13) : rev13 (rev13 v) = v := by
  apply BitVec.eq_of_getLsbD_eq
  intro i h
  rw [getLsbD_rev13 _ _ h, getLsbD_rev13 _ _ (by omega), show 12 - (12 - i) = i by omega]

theorem complement13_complement13 (v : Char13) : complement13 (complement13 v) = v := by
  simp [complement13]

/-- The build leaves the tables of R124 whenever the spaces agreed with TBLRDY before it (R126). -/
theorem ensureTables_of_tablesOk (s : State) (h : s.TablesOk) :
    ensureTables s = { s with tables := builtTables, tblrdy := true } := by
  by_cases hr : s.tblrdy = true
  · simp [ensureTables, hr, h.2 hr]
  · simp [ensureTables, hr]

theorem tablesOk_ensureTables (s : State) (h : s.TablesOk) : (ensureTables s).TablesOk := by
  rw [ensureTables_of_tablesOk s h]
  exact ⟨fun h => (nomatch h), fun _ => rfl⟩

/-- R127: a pattern and its complement have the same DEC entry. -/
theorem decRead_complement13 (t : List Assignment) (p : Char13) : decRead t (complement13 p) = decRead t p := by
  have h : assignmentOf t (complement13 p) = assignmentOf t p := by
    simp only [assignmentOf, complement13_complement13, Bool.or_comm]
  simp only [decRead, h]

/-- The number of 1 bits among the low `bits` bits. -/
def onesBelow (bits v : Nat) : Nat := (List.range bits).countP fun i => v.testBit i

theorem onesBelow_succ (bits v : Nat) : onesBelow (bits + 1) v = onesBelow bits v + (v.testBit bits).toNat := by
  simp only [onesBelow, List.range_succ, List.countP_append, List.countP_singleton]
  cases v.testBit bits <;> rfl

theorem onesBelow_two_pow_add (bits v : Nat) : onesBelow bits (2 ^ bits + v) = onesBelow bits v := by
  apply List.countP_congr
  intro i hi
  rw [Nat.testBit_two_pow_add_gt (List.mem_range.mp hi)]

/-- The values the build visits are exactly the `bits`-bit values of the class's weight. -/
theorem mem_valuesOfWeight (bits w v : Nat) :
    v ∈ valuesOfWeight bits w ↔ v < 2 ^ bits ∧ onesBelow bits v = w := by
  induction bits generalizing w v with
  | zero =>
    cases w with
    | zero => simp [valuesOfWeight, onesBelow]
    | succ w => simp [valuesOfWeight, onesBelow]
  | succ bits ih =>
    have hlow : ∀ u, u < 2 ^ bits → onesBelow (bits + 1) u = onesBelow bits u := by
      intro u hu
      rw [onesBelow_succ, Nat.testBit_lt_two_pow hu]
      rfl
    have hhigh : ∀ u, u < 2 ^ bits → onesBelow (bits + 1) (2 ^ bits + u) = onesBelow bits u + 1 := by
      intro u hu
      rw [onesBelow_succ, onesBelow_two_pow_add, Nat.testBit_two_pow_add_eq, Nat.testBit_lt_two_pow hu]
      rfl
    have hsplit : v < 2 ^ (bits + 1) ↔ v < 2 ^ bits ∨ ∃ u, u < 2 ^ bits ∧ v = 2 ^ bits + u := by
      constructor
      · intro h
        by_cases hv : v < 2 ^ bits
        · exact .inl hv
        · exact .inr ⟨v - 2 ^ bits, by rw [Nat.pow_succ] at h; omega, by omega⟩
      · rintro (h | ⟨u, hu, rfl⟩) <;> rw [Nat.pow_succ] <;> omega
    rw [hsplit]
    cases w with
    | zero =>
      rw [valuesOfWeight, ih]
      constructor
      · rintro ⟨h1, h2⟩
        exact ⟨.inl h1, by rw [hlow v h1, h2]⟩
      · rintro ⟨h1 | ⟨u, hu, rfl⟩, h2⟩
        · exact ⟨h1, by rw [← hlow v h1, h2]⟩
        · rw [hhigh u hu] at h2; omega
    | succ w =>
      rw [valuesOfWeight, List.mem_append, List.mem_map, ih]
      constructor
      · rintro (⟨h1, h2⟩ | ⟨u, hu, rfl⟩)
        · exact ⟨.inl h1, by rw [hlow v h1, h2]⟩
        · obtain ⟨h1, h2⟩ := (ih _ _).mp hu
          exact ⟨.inr ⟨u, h1, rfl⟩, by rw [hhigh u h1, h2]⟩
      · rintro ⟨h1 | ⟨u, hu, rfl⟩, h2⟩
        · exact .inl ⟨h1, by rw [← hlow v h1, h2]⟩
        · rw [hhigh u hu] at h2
          exact .inr ⟨u, (ih _ _).mpr ⟨hu, by omega⟩, rfl⟩

end Sys2Proof.Machine
end

