-- ==== Sys2Proof/Tests/Slice0.lean ====
section
/-! SUPPORT. Tests/Slice0.lean: the model's own tests. Expected values are the spec's: `30_encoding.md` R94 and R100,
`40_tables.md` R128, and the vectors of `95_test_vectors.md`, named in each docstring. The last part shows, for each
statement of Certificates/Slice0/Obligations.lean that has hypotheses, states and operands that meet them. -/

namespace Sys2Proof.Tests

-- One theorem at a time: the kernel evaluations below are not run side by side, to keep memory small.
set_option Elab.async false

open Sys2Proof.Machine Sys2Proof.Claims

/-! WellFormed: one ill-formed word for each check of R93; the check refuses it, and so does the decoder, by name. -/

theorem test_wf_opcode : opcodeAssigned 0xFF00000000000000 = false ∧ legalWord 0xFF00000000000000 = false
    ∧ decodeWord 0xFF00000000000000 = .error (.unassignedOpcode 0xFF) := by decide

theorem test_wf_reserved : reservedClear 0x1210000000000001 = false ∧ legalWord 0x1210000000000001 = false
    ∧ decodeWord 0x1210000000000001 = .error (.reservedNotZero 1) := by decide

theorem test_wf_operandA : operandAAllowed 0x1200000100000005 = false ∧ legalWord 0x1200000100000005 = false
    ∧ decodeWord 0x1200000100000005 = .error (.operandANotUsed 1) := by decide

theorem test_wf_operandB : operandBAllowed 0x1500000A00000005 = false ∧ legalWord 0x1500000A00000005 = false
    ∧ decodeWord 0x1500000A00000005 = .error (.operandBNotUsed 5) := by decide

theorem test_wf_legal : legalWord 0x140FFFFFFFFFFFFF = true ∧ legalWord 0x7100000000000000 = true := by decide

/-! Decoding: a word of every command, written out from R91 and R94 (op in bits 63:56, A in 51:32, B in 31:0). -/

theorem test_decode_tables : decodeWord 0x0100000000000000 = .ok .tblbuild := by decide

theorem test_decode_arithmetic :
    decodeWord 0x1000000000000000 = .ok .mpclr ∧ decodeWord 0x1100000000000000 = .ok .mpisz
    ∧ decodeWord 0x120000000001869F = .ok (.mpadd 99999) ∧ decodeWord 0x13000000000B2DB9 = .ok (.mpsub 732601)
    ∧ decodeWord 0x140027100000270F = .ok (.mpmuladd 10000 9999)
    ∧ decodeWord 0x1500055500000000 = .ok (.mpdivmod 1365) := by decide

theorem test_decode_fcs : decodeWord 0x2000000000000000 = .ok .fcscalc := by decide

theorem test_decode_permutation :
    decodeWord 0x3000000000000000 = .ok .loadtxt ∧ decodeWord 0x3100000000000000 = .ok .permfwd
    ∧ decodeWord 0x3200000000000000 = .ok .perminv ∧ decodeWord 0x3300000000000000 = .ok .flipad := by decide

theorem test_decode_codewords :
    decodeWord 0x4000000000000000 = .ok .cwenc ∧ decodeWord 0x4100000000000000 = .ok .cwdec := by decide

theorem test_decode_records :
    decodeWord 0x5000000000000000 = .ok .pack ∧ decodeWord 0x5100000000000000 = .ok .unpack := by decide

theorem test_decode_codec :
    decodeWord 0x6000000000000000 = .ok .encode ∧ decodeWord 0x6100000000000000 = .ok .decode := by decide

theorem test_decode_repair :
    decodeWord 0x7000000000000000 = .ok .lenfix ∧ decodeWord 0x7100000000000000 = .ok .bitfix := by decide

theorem test_decodeTableWord : decodeTableWord 64 0x140F42400008A736 = some (.mpmuladd 1000000 567094)
    ∧ decodeTableWord 64 0x7200000000000000 = none := by decide

/-! Helpers. -/

/-- The state a result answers. -/
def after (r : Result) : State :=
  match r with
  | .next s => s
  | .fault f => nomatch f
  | .refused _ => State.reset

/-- After reset, with these inputs presented. -/
def presented (l : List Input) : State := { State.reset with host := { pending := l, answers := [] } }

/-- After reset, with this number in N. -/
def withNum (v : Nat) : State := { State.reset with num := numOf v }

/-- After reset, with this text in TXT and TXTLEN. -/
def withText (t : List Byte) : State :=
  { State.reset with txt := writeFront State.reset.txt t, txtlen := BitVec.ofNat 8 t.length }

/-- The letters of symbols. -/
def letters (l : List Symbol) : List Byte := l.map symbolByte

/-- The ASCII digits of a number of `k` digits. -/
def digits : Nat → Nat → List Byte
  | 0, _ => []
  | k + 1, v => digits k (v / 10) ++ [BitVec.ofNat 8 (0x30 + v % 10)]

/-- The known text, part 0. -/
def kvPart0 : List Symbol :=
   [.a, .t, .t, .f, .a, .a, .t, .t, .f, .t, .a, .d, .f, .d, .a, .t, .d, .d, .a, .d, .a, .a]

/-- The known text, part 1. -/
def kvPart1 : List Symbol :=
   [.t, .t, .t, .t, .t, .t, .t, .t, .a, .d, .f, .f, .f, .f, .f, .d, .f, .a, .f, .a, .t, .t]

/-- The known text, part 2. -/
def kvPart2 : List Symbol :=
   [.d, .a, .a, .d, .a, .t, .d, .d, .d, .t, .a, .d, .a, .f, .f, .d, .f, .d, .t, .f, .t]

/-- The known text of IMB §8 (vector V1), as symbols. -/
def kvSymbols : List Symbol := kvPart0 ++ kvPart1 ++ kvPart2

/-- The known text's characters (`95_test_vectors.md`, notation). -/
def kvChars : Chars := #v[0x1154, 0x001F, 0x001F, 0x002F, 0x1B8B, 0x12BD, 0x195B, 0x0A23, 0x142A, 0x046A]

/-- The known text's codeword indices. -/
def kvCw : Codewords := #v[659, 0, 0, 2, 546, 833, 579, 980, 1007, 538]

/-- The known text's payload. -/
def kvNum : Nat := 7234567094987654321

/-- The known record (E1). -/
def kvRecord : Record :=
  ⟨[], [], [], digits 2 12, digits 3 234, digits 6 567094, digits 9 987654321⟩

/-- The entries of the built tables that the known text uses, so that a test does not search all 1365
(`test_kvTables` compares them with the build). -/
def kvTables : List Assignment :=
  [⟨659, 0x1154⟩, ⟨0, 0x001F⟩, ⟨2, 0x002F⟩, ⟨546, 0x0474⟩, ⟨833, 0x0D42⟩, ⟨579, 0x06A4⟩, ⟨980, 0x0A23⟩,
   ⟨1007, 0x142A⟩, ⟨538, 0x046A⟩]

/-- A state whose tables hold those entries. -/
def kvBuilt (s : State) : State := { s with tables := kvTables, tblrdy := true }

/-! The step and the ports. -/

/-- M1: the first command after reset. -/
theorem test_step_command :
    (after (step (State.reset.withFetchWord 64 0x120000000001869F))).num = #v[0, 0, 0, 0, 0, 0, 0, 0, 0x030, 0x69F] := by
  decide +kernel

/-- R303: an illegal word writes STATUS 0x7F and leaves REASON. -/
theorem test_step_illegal :
    (after (step { presented [.command 0x7200000000000000] with reason := .fcs })).status = .illegalCmd
    ∧ (after (step { presented [.command 0x7200000000000000] with reason := .fcs })).reason = .fcs := by decide +kernel

/-- T13, T8, T1: PERM words, an unmapped address, FLAGS. -/
theorem test_read : (after (Sys2Proof.core.run 4
      (presented [.read 0x0400, .read 0x0440, .read 0x1555, .read 0x0002]))).host.answers
    = [0x2734, 0xA328, 0, 0] := by decide +kernel

/-- T15, T16, T17: what a write keeps. -/
theorem test_write :
    (after (Sys2Proof.core.run 8 (presented [.write 0x0040 32, .write 0x0040 33, .write 0x0013 0xFFFFFFFF, .write 0x0000 5,
        .read 0x0040, .read 0x0013, .read 0x0000, .read 0x0013]))).host.answers = [32, 0x7FF, 0, 0x7FF]
    ∧ (after (hostWrite 0x000A 129 State.reset)).txtlen = 0
    ∧ (after (hostWrite 0x000A 0x180 State.reset)).txtlen = 128 := by decide +kernel

/-- R64's map at the ends of its ranges. -/
theorem test_map : regAt 0x0019 = some (.num 9) ∧ regAt 0x001A = none ∧ regAt 0x0052 = some (.hl 2)
    ∧ regAt 0x017F = some (.txt 127) ∧ regAt 0x01C0 = some (.cand 64) ∧ regAt 0x01C1 = none
    ∧ regAt 0x03DF = some (.recb 6 31) ∧ regAt 0x03E0 = none ∧ regAt 0x1554 = some (.enc 1364)
    ∧ regAt 0x3FFF = some (.dec 8191) := by decide +kernel

/-! The commands. -/

/-- T2, T4: TBLBUILD, and the first entry of ENC. -/
theorem test_tblbuild : (after (exec .tblbuild State.reset)).tblrdy = true
    ∧ (after (hostRead 0x1000 (after (exec .tblbuild State.reset)))).host.answers = [0x001F] := by decide +kernel

/-- T6, T7, T10, R128: entries of the built tables. -/
theorem test_tables : [encRead builtTables 658, encRead builtTables 1271, encRead builtTables 1272,
      encRead builtTables 1286, encRead builtTables 1288, encRead builtTables 1364]
      = [0x0551, 0x1883, 0x1843, 0x01F0, 0x1800, 0x00A0]
    ∧ decRead builtTables 0x0FFE = some 1359 ∧ fctRead builtTables 0x0FFE = true
    ∧ decRead builtTables 0x0040 = none := by decide +kernel

/-- The known text's entries are entries of the build. -/
theorem test_kvTables : kvTables.all (fun a => builtTables.contains a) = true := by decide +kernel

/-- M10. -/
theorem test_mpclr : (after (exec .mpclr { withNum 5 with z := true, ovf := true })).num = numOf 0
    ∧ flagsWord (after (exec .mpclr { withNum 5 with z := true, ovf := true })) = 3 := by decide +kernel

/-- R147's examples. -/
theorem test_mpisz : (after (exec .mpisz State.reset)).z = true
    ∧ (after (exec .mpisz { withNum (2 ^ 109) with z := true })).z = false := by decide +kernel

/-- M16, M17. -/
theorem test_mpadd : (after (exec (.mpadd 1) (withNum 2047))).num = #v[0, 0, 0, 0, 0, 0, 0, 0, 1, 0]
    ∧ (after (exec (.mpadd 4294967295) (withNum (2 ^ 110 - 1)))).num
        = #v[0, 0, 0, 0, 0, 0, 0, 0x3FF, 0x7FF, 0x7FE]
    ∧ (after (exec (.mpadd 4294967295) (withNum (2 ^ 110 - 1)))).ovf = true := by decide +kernel

/-- M24, M23. -/
theorem test_mpsub : (after (exec (.mpsub 4294967295) State.reset)).num
      = #v[0x7FF, 0x7FF, 0x7FF, 0x7FF, 0x7FF, 0x7FF, 0x7FF, 0x400, 0, 1]
    ∧ (after (exec (.mpsub 4294967295) State.reset)).ovf = true
    ∧ (after (exec (.mpsub 0) { State.reset with ovf := true })).ovf = false := by decide +kernel

/-- M11, M2. -/
theorem test_mpmuladd : (after (exec (.mpmuladd 1048575 4294967295) (withNum (2 ^ 110 - 1)))).num
      = #v[0, 0, 0, 0, 0, 0, 0, 0x3FF, 0x600, 0]
    ∧ (after (exec (.mpmuladd 1048575 4294967295) (withNum (2 ^ 110 - 1)))).ovf = true
    ∧ (after (exec (.mpmuladd 10000 9999) (withNum 99999))).num = #v[0, 0, 0, 0, 0, 0, 0, 0x0EE, 0x359, 0x1FF] := by
  decide +kernel

/-- M18. -/
theorem test_mpdivmod : (after (exec (.mpdivmod 636) (withNum 12345678901234567890))).num
      = #v[0, 0, 0, 0, 0, 0x44F, 0x34D, 0x4C2, 0x57D, 0x44B]
    ∧ (after (exec (.mpdivmod 636) (withNum 12345678901234567890))).rem = 126 := by decide +kernel

/-- M14. -/
theorem test_mpdivmod_zero : (after (exec (.mpdivmod 0) { withNum 5 with rem := 9 })).status = .operand
    ∧ (after (exec (.mpdivmod 0) { withNum 5 with rem := 9 })).rem = 9
    ∧ (after (exec (.mpdivmod 0) { withNum 5 with rem := 9 })).num = numOf 5 := by decide +kernel

/-- F6, F7, F9, F10. -/
theorem test_fcscalc : (after (exec .fcscalc (withNum 1234567))).fcs = 0x0B1
    ∧ (after (exec .fcscalc (withNum (2 ^ 101)))).fcs = 0x311
    ∧ (after (exec .fcscalc (withNum (2 ^ 110 - 1)))).fcs = 0x21B
    ∧ (after (exec .fcscalc (withNum kvNum))).fcs = 0x470 := by decide +kernel

/-- X1, X2 (in lower case, S for T as in X4). -/
theorem test_loadtxt : (after (exec .loadtxt (withText (letters kvSymbols)))).cand.toList = kvSymbols
    ∧ (after (exec .loadtxt (withText
        ((letters kvSymbols).map fun b => if b = 0x54 then 0x73 else b + 0x20)))).cand.toList = kvSymbols := by
  decide +kernel

/-- X7, X6: the symbol check before the length check. -/
theorem test_loadtxt_fails :
    (after (exec .loadtxt (withText (0x58 :: letters kvSymbols)))).status = .formatSymbol
    ∧ (after (exec .loadtxt (withText (0x41 :: letters kvSymbols)))).status = .formatLength := by decide +kernel

/-- X15. -/
theorem test_permfwd : (after (exec .permfwd { State.reset with cand := toCandidate kvSymbols })).ch = kvChars := by
  decide +kernel

/-- X22. -/
theorem test_perminv : textOf (after (exec .perminv { State.reset with ch := kvChars })) = letters kvSymbols := by
  decide +kernel

/-- X23 (its first twelve symbols). -/
theorem test_flipad :
    (after (exec .flipad { State.reset with cand := toCandidate kvSymbols })).cand.toList.take 12
      = [.d, .t, .t, .f, .d, .d, .t, .t, .f, .t, .d, .a] := by decide +kernel

/-- K6. -/
theorem test_cwenc : (after (exec .cwenc (kvBuilt (withNum kvNum)))).cw = kvCw
    ∧ (after (exec .cwenc (kvBuilt (withNum kvNum)))).ch = kvChars
    ∧ (after (exec .cwenc (kvBuilt (withNum kvNum)))).fcs = 0x470 := by decide +kernel

/-- K7's divisions, and K8: a number outside the codeword space. -/
theorem test_cwenc_edge :
    (after (exec .cwenc (kvBuilt (withNum 5051306733752184025300720312499)))).cw
      = #v[1317, 1364, 1364, 1364, 1364, 1364, 1364, 1364, 1364, 1270]
    ∧ numVal (after (exec .cwenc (kvBuilt (withNum 5051306733752184025300720312499)))).num = 658
    ∧ (after (exec .cwenc (kvBuilt (withNum 5051306733752184025300720312500)))).status = .operand := by decide +kernel

/-- K11. -/
theorem test_cwdec : (after (exec .cwdec (kvBuilt { State.reset with ch := kvChars }))).cw = kvCw
    ∧ numVal (after (exec .cwdec (kvBuilt { State.reset with ch := kvChars }))).num = kvNum
    ∧ (after (exec .cwdec (kvBuilt { State.reset with ch := kvChars }))).rfcs = 0x470 := by decide +kernel

/-- K19, K20: a complemented character fails the FCS; two characters that miss. -/
theorem test_cwdec_fails :
    (after (exec .cwdec (kvBuilt { State.reset with ch := kvChars.set 1 0x1FE0 }))).reason = .fcs
    ∧ (after (exec .cwdec (kvBuilt { State.reset with ch := (kvChars.set 2 0).set 5 0x1FFF }))).reason = .lookup
    ∧ (after (exec .cwdec (kvBuilt { State.reset with ch := (kvChars.set 2 0).set 5 0x1FFF }))).errcnt = 2 := by
  decide +kernel

/-- E1, and E6's payload, the largest. -/
theorem test_pack : numVal (after (exec .pack (writeRecord kvRecord State.reset))).num = kvNum
    ∧ numVal (after (exec .pack (writeRecord ⟨digits 5 99999, digits 4 9999, digits 2 99, digits 2 94, digits 3 999,
        digits 9 999999999, digits 6 999999⟩ State.reset))).num = 5050005000049999999999999999999 := by decide +kernel

/-- W3, W7, W12. -/
theorem test_pack_fails :
    [{ kvRecord with plus4 := digits 4 5678 }, { kvRecord with barcodeId := digits 2 15 },
      { kvRecord with zip := [0x61, 0x62, 0x63], barcodeId := [0x31, 0x78] }].map
      (fun r => (after (exec .pack (writeRecord r State.reset))).status) = [.vPlus4, .vBarcodeId, .vZip] := by
  decide +kernel

/-- E4's payload unpacked. -/
theorem test_unpack :
    (List.finRange 7).map (fieldOf (after (exec .unpack (withNum 111733394601234567094987654321))))
      = [digits 5 1234, digits 4 5678, digits 2 91, digits 2 1, digits 3 234, digits 6 567094, digits 9 987654321] := by
  decide +kernel

/-- U4, U6. -/
theorem test_unpack_edge :
    (after (exec .unpack (withNum 5050005000050000000000000000000))).reason = .route
    ∧ (after (exec .unpack (withNum 5050005000050000000000000000000))).num
        = numOf 5050005000050000000000000000000
    ∧ fieldOf (after (exec .unpack (withNum 7234912345678901234))) 5 = digits 9 912345678 := by decide +kernel

/-- V2. -/
theorem test_encode : textOf (after (exec .encode (kvBuilt (writeRecord kvRecord State.reset)))) = letters kvSymbols
    ∧ numVal (after (exec .encode (kvBuilt (writeRecord kvRecord State.reset)))).num = kvNum := by decide +kernel

/-- V1. -/
theorem test_decode : (after (exec .decode (kvBuilt (withText (letters kvSymbols))))).status = .ok
    ∧ (List.finRange 7).map (fieldOf (after (exec .decode (kvBuilt (withText (letters kvSymbols))))))
        = (recordFields kvRecord).toList := by decide +kernel

/-- D2: bar 0 A -> T is repaired and highlighted. -/
theorem test_decode_repaired :
    (after (exec .decode (kvBuilt (withText (letters (kvSymbols.set 0 .t)))))).status = .okRepaired
    ∧ (after (exec .decode (kvBuilt (withText (letters (kvSymbols.set 0 .t)))))).sug.toList = letters kvSymbols
    ∧ hlWord (after (exec .decode (kvBuilt (withText (letters (kvSymbols.set 0 .t)))))) 0 = 1 := by decide +kernel

/-- L2's score at position 20, and R272's choice of the first best among its scores there: 5, 3, 1, 1. -/
theorem test_lenfix_score : misses kvTables (toCandidate (kvSymbols.take 20 ++ .x :: kvSymbols.drop 21)) = 1
    ∧ (scanBest ([5, 3, 1, 1].zipIdx.map fun e => ⟨State.reset.cand, .insert, e.2 + 18, e.1⟩) Config.lenCap none).map
        (fun c => (c.pos, c.misses)) = some (20, 1) := by decide +kernel

/-- L9: 65 symbols. -/
theorem test_lenfix_fails : (after (exec .lenfix (kvBuilt (withText (letters kvSymbols))))).status = .formatLength := by
  decide +kernel

/-- R277's example: character 6 repaired. -/
theorem test_bitfix : (after (exec .bitfix (kvBuilt { State.reset with ch := kvChars.set 6 0x115B }))).ch = kvChars
    ∧ (after (exec .bitfix (kvBuilt { State.reset with ch := kvChars.set 6 0x115B }))).errcnt = 1 := by decide +kernel

/-- R277: CH[0] = 0 is unrecoverable, PROD = 0. -/
theorem test_bitfix_fails : (after (exec .bitfix (kvBuilt State.reset))).status = .unrecoverable
    ∧ (after (exec .bitfix (kvBuilt State.reset))).prod = 0 := by decide +kernel

/-! Witnesses: for each statement with hypotheses, states and operands that meet them, at the ends of the ranges where
its clauses meet. -/

theorem exec_after (i : Instr) (s : State) : exec i s = .next (after (exec i s)) := by
  obtain ⟨t, h⟩ := exec_next i s
  rw [h]; rfl

theorem tablesOk_fresh (s : State) (h1 : s.tables = []) (h2 : s.tblrdy = false) : s.TablesOk :=
  ⟨fun _ => h1, fun h => by rw [h2] at h; cases h⟩

/-- The known text, loaded after reset. -/
def textState : State := withText (letters kvSymbols)

/-- The characters of the all-zero record (K1), whose entries stand at the front of the tables. -/
def zeroChars : Chars := #v[0x1154, 0x001F, 0x001F, 0x001F, 0x001F, 0x1FE0, 0x1FE0, 0x1FE0, 0x001F, 0x1FE0]

/-- The text of the all-zero record (E7). -/
def zeroText : List Byte := symsToText (charsToSyms zeroChars)

/-- The known record, written after reset. -/
def recordState : State := writeRecord kvRecord State.reset

theorem meets_EncodeOfDecodeIsTheWord :
    decodeWord 0x140FFFFFFFFFFFFF = .ok (.mpmuladd 1048575 4294967295) ∧ decodeWord 0x7100000000000000 = .ok .bitfix := by
  decide

theorem meets_LegalWordsAreTheCommands :
    opcodeTable.all (fun r => selects r r.matchBits) = true ∧ opcodeTable.length = 20 := by decide

theorem meets_StepRunsTheDecodedCommand :
    (presented [.command 0x1500000000000000, .reset]).host.pending = .command 0x1500000000000000 :: [.reset]
    ∧ decodeWord 0x1500000000000000 = .ok (.mpdivmod 0) := by decide

theorem meets_IllegalWordWritesStatusOnly :
    (presented [.command 0x7200000000000000]).host.pending = .command 0x7200000000000000 :: []
    ∧ legalWord 0x7200000000000000 = false := by decide

theorem meets_IdleWaitsAndResetResets :
    State.reset.host.pending = [] ∧ (presented [.reset, .read 0]).host.pending = .reset :: [.read 0] := by decide

theorem meets_ResetReadsZero :
    readsTables (.num 9) = false ∧ (∀ i, Reg.num 9 ≠ .perm i) ∧ readsTables .status = false
    ∧ (∀ i, Reg.status ≠ .perm i) := by decide +kernel

theorem meets_RegisterMapIsOneToOne : regAt 0x0000 = some .status ∧ regAt 0x3FFF = some (.dec 8191) := by decide +kernel

theorem meets_HostReadReturnsTheRegister :
    (presented [.read 0x000B]).host.pending = .read 0x000B :: [] ∧ regAt 0x000B = none
    ∧ (presented [.read 0x000A]).host.pending = .read 0x000A :: [] ∧ regAt 0x000A = some .txtlen
    ∧ readsTables .txtlen = false
    ∧ (presented [.read 0x1554]).host.pending = .read 0x1554 :: [] ∧ regAt 0x1554 = some (.enc 1364)
    ∧ readsTables (.enc 1364) = true ∧ regAt 0x1555 = none ∧ regAt 0x2000 = some (.dec 0) := by decide +kernel

theorem meets_HostReadReturnsTheRegister_tables : ∀ a, (presented [.read a]).TablesOk :=
  fun _ => tablesOk_fresh _ rfl rfl

theorem meets_HostWriteStoresTheLowBits :
    (presented [.write 0x000B 1]).host.pending = .write 0x000B 1 :: [] ∧ regAt 0x000B = none
    ∧ (presented [.write 0x000A 128]).host.pending = .write 0x000A 128 :: []
    ∧ (presented [.write 0x000A 129]).host.pending = .write 0x000A 129 :: [] ∧ regAt 0x000A = some .txtlen
    ∧ (presented [.write 0x0046 33]).host.pending = .write 0x0046 33 :: [] ∧ regAt 0x0046 = some (.rlen 6)
    ∧ Reg.txtlen ≠ .rlen 6 := by decide +kernel

theorem meets_TableUsersBuildTheTables :
    buildsTables .bitfix = true ∧ buildsTables .unpack = false ∧ regAt 0x1000 = some (.enc 0)
    ∧ readsTables (.enc 0) = true ∧ legalWord 0x0200000000000000 = false
    ∧ regAt 0x0FFF = none ∧ regAt 0x1555 = none ∧ regAt 0x0440 = some (.perm 64) ∧ readsTables (.perm 64) = false := by
  decide +kernel

/-- A step on a presented command that decodes answers a next state. -/
theorem step_command (s : State) (w : CmdWord) (i : Instr) (rest : List Input)
    (hp : s.host.pending = .command w :: rest) (hd : decodeWord w = .ok i) : ∃ t, step s = .next t := by
  obtain ⟨t, ht⟩ := exec_next i { s with host := { s.host with pending := rest } }
  refine ⟨t, ?_⟩
  unfold step
  rw [takeInput_of_cons s _ rest hp]
  show runWord w _ = _
  unfold runWord
  rw [hd]
  exact ht

theorem meets_TablesOnceBuiltStay :
    (kvBuilt (presented [.command 0x0100000000000000])).tblrdy = true
    ∧ (kvBuilt (presented [.command 0x0100000000000000])).host.pending.head? ≠ some .reset
    ∧ ∃ t, step (kvBuilt (presented [.command 0x0100000000000000])) = .next t :=
  ⟨rfl, by decide, step_command _ _ .tblbuild _ rfl (by decide)⟩

theorem meets_BuiltTablesAreInverse : decRead builtTables 0x001F = some 0 ∧ decRead builtTables 0x1F5F = some 1364 := by
  decide +kernel

theorem meets_MpdivmodResult : (0 : BitVec 20) = 0 ∧ (1 : BitVec 20) ≠ 0 ∧ (1048575 : BitVec 20) ≠ 0 := by decide

theorem meets_NumbersAreTheirValues : 2 ^ 110 - 1 < 2 ^ 110 := by decide

theorem meets_InverseArithmeticRestoresN :
    (0 : BitVec 32).toNat < (3 : BitVec 20).toNat
    ∧ numVal (withNum ((2 ^ 110 - 1) / 3)).num * (3 : BitVec 20).toNat + (0 : BitVec 32).toNat = 2 ^ 110 - 1
    ∧ (1048574 : BitVec 32).toNat < (1048575 : BitVec 20).toNat
    ∧ numVal (withNum 5).num * (1048575 : BitVec 20).toNat + (1048574 : BitVec 32).toNat < 2 ^ 110 := by decide +kernel

theorem meets_InverseArithmeticRestoresN_runs (i j : Instr) (s : State) :
    ∃ t u, exec i s = .next t ∧ exec j t = .next u :=
  ⟨_, _, exec_after i s, exec_after j _⟩

theorem meets_TextsReadAsSymbols : toSymbols (letters kvSymbols) = some kvSymbols ∧ toSymbols [0x20] = some [] := by
  decide +kernel

theorem meets_LoadtxtResult :
    toSymbols (textOf (withText [0x51])) = none ∧ toSymbols (textOf textState) = some kvSymbols
    ∧ kvSymbols.length = 65
    ∧ toSymbols (textOf (withText (letters (kvSymbols.take 64)))) = some (kvSymbols.take 64)
    ∧ (kvSymbols.take 64).length ≠ 65 := by decide +kernel

theorem meets_CwencResult :
    numVal (withNum codewordSpace).num = codewordSpace ∧ numVal (withNum (codewordSpace - 1)).num < codewordSpace := by
  decide +kernel

theorem meets_CwencResult_tables : ∀ v, (withNum v).TablesOk := fun _ => tablesOk_fresh _ rfl rfl

theorem meets_CwdecResult : cwDecode builtTables zeroChars
      = .ok { cw := #v[659, 0, 0, 0, 0, 0, 0, 0, 0, 0], fcs := 0x6E0, num := numOf 0 }
    ∧ cwDecode builtTables State.reset.ch = .error .lookup := by decide +kernel

/-- The known text's entries and the entries where the range checks of R203 change (K13 to K17, R128). -/
def edgeTables : List Assignment :=
  kvTables ++ [⟨1317, 0x0041⟩, ⟨1318, 0x1040⟩, ⟨1269, 0x1903⟩, ⟨1270, 0x1823⟩, ⟨1271, 0x1883⟩]

/-- The known characters with others at 0 and 9. -/
def edgeChars (p q : Char13) : Chars := (kvChars.set 0 p).set 9 q

/-- The known indices with others at 0 and 9. -/
def edgeCw (p q : Index) (n : Fin 10) : Index := ((kvCw.set 0 p).set 9 q)[n]

theorem meets_CwdecodeChecksInOrder :
    (∃ n : Fin 10, decRead edgeTables (kvChars.set 2 0)[n] = none)
    ∧ (∀ n : Fin 10, decRead edgeTables (edgeChars 0x1040 0x046A)[n] = some (edgeCw 1318 538 n))
    ∧ (∀ n : Fin 10, decRead edgeTables (edgeChars 0x1154 0x1883)[n] = some (edgeCw 659 1271 n))
    ∧ (∀ n : Fin 10, decRead edgeTables (edgeChars 0x0041 0x1903)[n] = some (edgeCw 1317 1269 n))
    ∧ (∀ n : Fin 10, decRead edgeTables (edgeChars 0x0041 0x1823)[n] = some (edgeCw 1317 1270 n))
    ∧ (∀ n : Fin 10, (edgeCw 1317 1270 n).toNat ≤ 1364) := by decide +kernel

theorem meets_CodewordRoundTrip : numVal (numOf (codewordSpace - 1)) < codewordSpace := by decide +kernel

theorem meets_CodewordsMatchCharacters :
    (after (exec .encode recordState)).status = .ok ∧ (after (exec .cwenc State.reset)).status = .ok
    ∧ (after (exec .cwdec { State.reset with ch := zeroChars })).status = .ok := by decide +kernel

theorem meets_PackResult : validate (normalisedRecord recordState) = none
    ∧ validate (normalisedRecord State.reset) = some .vBarcodeId := by decide +kernel

theorem meets_UnpackResult :
    numVal (withNum 5050005000050000000000000000000).num / (5 * 10 ^ 19) = 101000100001
    ∧ numVal (withNum 5050005000049999999999999999999).num / (5 * 10 ^ 19) = 101000100000 := by decide +kernel

theorem meets_UnpackOfPack :
    validate kvRecord = none ∧ SentinelSplit kvRecord
    ∧ validate { kvRecord with mailerId := digits 9 901234567, serialNum := digits 6 42 } = none
    ∧ SentinelSplit { kvRecord with mailerId := digits 9 901234567, serialNum := digits 6 42 }
    ∧ validate { kvRecord with mailerId := digits 6 912345 } = none
    ∧ (digits 6 912345).length = 6 ∧ (digits 6 912345).head? = some 0x39
    ∧ validate { kvRecord with mailerId := digits 9 567094987, serialNum := digits 6 654321 } = none
    ∧ (digits 9 567094987).length = 9 ∧ (digits 9 567094987).head? ≠ some 0x39 := by
  unfold SentinelSplit
  decide +kernel

theorem meets_EncodeResult : recordState.TablesOk ∧ State.reset.TablesOk :=
  ⟨tablesOk_fresh _ rfl rfl, tablesOk_fresh _ rfl rfl⟩

theorem meets_EncodeIsPackCwencPerminv : recordState.TablesOk ∧ validate (normalisedRecord recordState) = none :=
  ⟨tablesOk_fresh _ rfl rfl, meets_PackResult.1⟩

/-- TablesOk holds before the build and after it. -/
theorem meets_DecodeFollowsItsPseudocode : textState.TablesOk ∧ (ensureTables textState).TablesOk :=
  ⟨tablesOk_fresh _ rfl rfl, tablesOk_ensureTables _ (tablesOk_fresh _ rfl rfl)⟩

theorem meets_LenfixResult : textState.TablesOk ∧ (ensureTables textState).TablesOk := meets_DecodeFollowsItsPseudocode

theorem meets_BitfixResult : textState.TablesOk ∧ (ensureTables textState).TablesOk := meets_DecodeFollowsItsPseudocode

theorem meets_DecodeOfEncodeRestoresTheRecord :
    validate (normalisedRecord recordState) = none ∧ SentinelSplit (normalisedRecord recordState)
    ∧ validate (normalisedRecord (writeRecord { kvRecord with mailerId := digits 6 912345 } State.reset)) = none
    ∧ ¬ SentinelSplit (normalisedRecord (writeRecord { kvRecord with mailerId := digits 6 912345 } State.reset)) := by
  unfold SentinelSplit
  decide +kernel

theorem meets_FailedDecodeCommitsNothing : (after (exec .decode State.reset)).status = .formatLength := by decide +kernel

theorem meets_DecodeDependsOnTheTextAlone :
    textOf (withText zeroText) = textOf { withText zeroText with num := numOf 5, z := true }
    ∧ (after (exec .decode (withText zeroText))).status = .ok := by decide +kernel

theorem meets_LengthFixKeepsTheFirstBest :
    (∃ c, lengthFix [⟨0, 0⟩] (List.replicate 64 .t) = some c)
    ∧ (∃ c, lengthFix [⟨0, 0⟩] (List.replicate 66 .t) = some c) := by
  rw [lengthFix_of_64 _ _ List.length_replicate, lengthFix_of_66 _ _ List.length_replicate]
  exact ⟨exists_scanBest _ _ (List.mem_map.mpr ⟨0, List.mem_range.mpr (by decide), rfl⟩) (by decide +kernel),
    exists_scanBest _ _ (List.mem_map.mpr ⟨0, List.mem_range.mpr (by decide), rfl⟩) (by decide +kernel)⟩

theorem meets_SequencerFollowsTheTable :
    decodeJob .decodeNorm = true ∧ Job.decodeNorm ≠ .idle ∧ lenfixJob (.lenfixScan []) = true
    ∧ Job.lenfixScan [] ≠ .idle ∧ bitfixJob .bitfixSearch = true ∧ Job.bitfixSearch ≠ .idle := by decide

theorem meets_OnlyListedCommandsWrite : mnemonicOf .tblbuild ∉
    ["MPCLR", "MPISZ", "MPADD", "MPSUB", "MPMULADD", "MPDIVMOD", "FCSCALC", "LOADTXT", "PERMFWD", "PERMINV", "FLIPAD",
      "CWENC", "CWDEC", "PACK", "UNPACK", "ENCODE", "DECODE", "LENFIX", "BITFIX"] := by decide

theorem meets_FailuresWriteOnlyWhatIsListed :
    (after (exec .decode (withText (zeroText.set 56 0x46)))).status = .okRepaired
    ∧ (after (exec .mpclr State.reset)).status = .ok ∧ (after (exec .cwdec State.reset)).reason = .lookup := by
  decide +kernel

/-- A legal state at the ends of its ranges, with a command presented. -/
def edgeState : State :=
  { presented [.command 0x1000000000000000] with
    txtlen := 128
    rlen := Vector.replicate 7 32
    cw := Vector.replicate 10 1364
    errcnt := 10
    prod := 0x7FF
    lfk := .delete
    lfp := 65
    sug := Vector.replicate 65 0x54
    status := .invalid
    reason := .fcs }

theorem meets_EveryStepKeepsInv : edgeState.Inv ∧ ∃ t, step edgeState = .next t := by
  refine ⟨⟨rfl, by decide, by decide, by decide, by decide, .inr rfl, by decide, ?_, by decide, by decide,
    tablesOk_fresh _ rfl rfl⟩, step_command _ _ .mpclr _ rfl (by decide)⟩
  intro i
  have h : edgeState.sug[i] = 0x54 := by simp [edgeState]
  rw [h]
  decide

end Sys2Proof.Tests
end

section
/-! PROOFS. Numbers and their values (`41_multiprecision.md` R11, R140): the words of a value, and that a number is
the only one with its value. -/

namespace Sys2Proof.Machine

/-- The low `k` words of `v`, most significant first: R140's `from(v)` at any length. -/
def lowWords (v : Nat) : Nat → List Word
  | 0 => []
  | k + 1 => BitVec.ofNat 11 (v / 2048 ^ k) :: lowWords v k

@[simp] theorem length_lowWords (v k : Nat) : (lowWords v k).length = k := by
  induction k with
  | zero => rfl
  | succ k ih => simp [lowWords, ih]

theorem toList_numOf (v : Nat) : (numOf v).toList = lowWords v 10 := by
  simp [numOf, lowWords, Vector.toList_ofFn, List.ofFn_succ, Nat.shiftRight_eq_div_pow]

/-- The low words of `v` are worth what `v` leaves below them. -/
theorem wordsVal_lowWords (v k : Nat) : wordsVal (lowWords v k) = v % 2048 ^ k := by
  induction k with
  | zero => simp [lowWords, wordsVal, Nat.mod_one]
  | succ k ih =>
    rw [lowWords, wordsVal_cons, ih, length_lowWords, toNat_ofNat_word, Nat.mod_pow_succ]
    ring

/-- The most significant word is the quotient by the weight it stands at. -/
theorem wordsVal_cons_div (w : Word) (ws : List Word) : wordsVal (w :: ws) / 2048 ^ ws.length = w.toNat := by
  rw [wordsVal_cons, Nat.add_comm, Nat.add_mul_div_right _ _ (by positivity), Nat.div_eq_of_lt (wordsVal_lt ws),
    Nat.zero_add]

/-- Words of one length are known by their value. -/
theorem eq_of_wordsVal_eq {us ws : List Word} (hl : us.length = ws.length) (h : wordsVal us = wordsVal ws) :
    us = ws := by
  induction us generalizing ws with
  | nil => exact (List.length_eq_zero_iff.mp hl.symm).symm
  | cons u us ih =>
    obtain - | ⟨w, ws⟩ := ws
    · cases hl
    have hl' : us.length = ws.length := Nat.succ.inj hl
    have head : u.toNat = w.toNat := by
      rw [← wordsVal_cons_div u us, ← wordsVal_cons_div w ws, h, hl']
    have tail : wordsVal us = wordsVal ws := by
      rw [wordsVal_cons, wordsVal_cons, head, hl'] at h
      exact Nat.add_left_cancel h
    rw [BitVec.eq_of_toNat_eq head, ih hl' tail]

theorem numVal_lt (num : Number) : numVal num < 2 ^ 110 := by
  have h := wordsVal_lt num.toList
  rw [Vector.length_toList] at h
  exact h

/-- `from` keeps the low 110 bits of what it is given (R140). -/
@[simp] theorem numVal_numOf (v : Nat) : numVal (numOf v) = v % 2 ^ 110 := by
  rw [numVal_eq_wordsVal, toList_numOf, wordsVal_lowWords, show 2048 ^ 10 = 2 ^ 110 from rfl]

theorem eq_of_numVal_eq {a b : Number} (h : numVal a = numVal b) : a = b :=
  Vector.toList_inj.mp (eq_of_wordsVal_eq (by simp) h)

theorem numOf_numVal (num : Number) : numOf (numVal num) = num :=
  eq_of_numVal_eq (by rw [numVal_numOf, Nat.mod_eq_of_lt (numVal_lt num)])

/-- Settles O26: the low words of a value, taken at ten words, and words being known by their value. -/
theorem numbersAreTheirValues : Obligations.NumbersAreTheirValues := by
  refine ⟨fun num => ⟨numVal_lt num, numOf_numVal num⟩, fun v hv => ?_⟩
  rw [numVal_numOf, Nat.mod_eq_of_lt hv]

end Sys2Proof.Machine
end

section
/-! PROOFS. One step on what is presented next (`00_scope.md` R10, `30_encoding.md` R90). -/

namespace Sys2Proof.Machine

open Sys2Proof.Claims

/-- A step performs the first input presented, on the state with that input taken. -/
theorem step_of_cons {s : State} {i : Input} {rest : List Input} (h : s.host.pending = i :: rest) :
    step s = perform i (taken rest s) := by
  rw [step, takeInput_of_cons s i rest h, taken]

theorem perform_command (w : CmdWord) (s : State) : perform (.command w) s = runWord w s := rfl

theorem runWord_of_decode {w : CmdWord} {i : Instr} (h : decodeWord w = .ok i) (s : State) :
    runWord w s = exec i s := by
  rw [runWord, h]

/-- Settles O5: the word is taken from the port, and a word that decodes runs its command. -/
theorem stepRunsTheDecodedCommand : Obligations.StepRunsTheDecodedCommand := by
  intro s w i rest hp hd
  calc step s = perform (.command w) (taken rest s) := step_of_cons hp
    _ = runWord w (taken rest s) := perform_command w _
    _ = exec i (taken rest s) := runWord_of_decode hd _

end Sys2Proof.Machine
end

section
/-! PROOFS. How each phase of the sequencer goes on (`47_repair.md` R270 to R278, `46_encode_decode.md` R252, R253),
and what the values it carries satisfy. -/

namespace Sys2Proof.Machine

/-! What the parts of a decode answer. -/

/-- A status a command fails with, and the reason beside it: a reason is given with INVALID and only with it (R30,
R302). -/
def Failure (st : Status) (r : Reason) : Prop := ¬ st.Success ∧ (st = .invalid ↔ r ≠ .none)

/-- LFK and LFP as `length_fix` and DECODE make them (R36, R272): no position without a correction, one of 65 for an
insertion, one of 66 for a deletion. -/
def Corrected.Placed (c : Corrected) : Prop :=
  (c.kind = .none → c.pos = 0) ∧ (c.kind = .insert → c.pos ≤ 64) ∧ (c.kind = .delete → c.pos ≤ 65)

/-- A decode that is what its own characters decode to (R252). -/
def Decoded.Sound (t : List Assignment) (r : Decoded) : Prop := decodeChars t r.ch = .ok r

/-- Values ERRCNT and PROD can take (R34, R35). -/
def DiagnosticsOk (e : BitVec 4) (p : BitVec 11) : Prop := e.toNat ≤ 10 ∧ (p.toNat ≤ Config.prodCap ∨ p = 0x7FF)

/-- A failure of `cw_decode` has a reason (R203). -/
theorem cwDecode_error {t : List Assignment} {ch : Chars} {r : Reason} (h : cwDecode t ch = .error r) : r ≠ .none := by
  unfold cwDecode at h
  dsimp only at h
  split at h
  · cases h; decide
  split at h
  · cases h; decide
  split at h
  · cases h; decide
  split at h
  · cases h
  · cases h; decide

/-- A failure of the strict decode has a reason (R252). -/
theorem decodeChars_error {t : List Assignment} {ch : Chars} {r : Reason} (h : decodeChars t ch = .error r) :
    r ≠ .none := by
  unfold decodeChars at h
  split at h
  · next hcw => cases h; exact cwDecode_error hcw
  · split at h
    · cases h; decide
    · cases h

theorem failureReason_ne_none {t : List Assignment} {sy : Candidate} : failureReason (strict t sy) ≠ .none := by
  cases h : strict t sy with
  | error r => exact decodeChars_error h
  | ok r => simp [failureReason]

theorem bitfixReason_ne_none (t : List Assignment) (ch : Chars) : bitfixReason t ch ≠ .none := by
  cases h : cwDecode t ch with
  | error r => simpa only [bitfixReason, h] using cwDecode_error h
  | ok r => simp [bitfixReason, h]

/-- A success of the strict decode is the decode of the characters it reports. -/
theorem decodeChars_sound {t : List Assignment} {ch : Chars} {r : Decoded} (h : decodeChars t ch = .ok r) :
    r.Sound t := by
  obtain ⟨d, -, -, rfl⟩ := decodeChars_ok t ch r h
  exact h

/-- The search appends only decodes of the characters they report (R276). -/
theorem search_sound (t : List Assignment) (ls : List (List Char13)) (cur : List Char13) (sols : List Decoded)
    (h : ∀ r ∈ sols, r.Sound t) : ∀ r ∈ search t ls cur sols, r.Sound t := by
  induction ls generalizing cur sols with
  | nil =>
    unfold search
    split
    · exact h
    · split
      · next r hr =>
        intro r' hr'
        rcases List.mem_append.mp hr' with hmem | hmem
        · exact h r' hmem
        · exact List.mem_singleton.mp hmem ▸ decodeChars_sound hr
      · exact h
  | cons l ls ih =>
    unfold search
    split
    · exact h
    · exact List.foldlRecOn (motive := fun acc => ∀ r ∈ acc, Decoded.Sound t r) l _ h
        fun acc hacc v _ => ih (cur ++ [v]) acc hacc

theorem solutions_sound {t : List Assignment} {ch : Chars} {r : Decoded} (h : r ∈ solutions t ch) : r.Sound t :=
  search_sound t _ [] [] (by simp) r h

/-- A length correction says where it was made, and scores below the cap (R272). -/
theorem lengthFix_placed {t : List Assignment} {sy : List Symbol} {c : Corrected} (h : lengthFix t sy = some c) :
    c.Placed ∧ c.misses ≤ 4 := by
  have kept {vs : List Corrected} (hs : scanBest vs Config.lenCap none = some c) :
      c ∈ vs ∧ c.misses < Config.lenCap :=
    (scanBest_mem vs _ none c hs).resolve_left (fun hn => nomatch hn)
  unfold lengthFix at h
  split at h
  · obtain ⟨hmem, hlt⟩ := kept h
    obtain ⟨p, hp, rfl⟩ := List.mem_map.mp hmem
    exact ⟨⟨nofun, fun _ => Nat.le_of_lt_succ (List.mem_range.mp hp), nofun⟩, Nat.le_of_lt_succ hlt⟩
  · split at h
    · obtain ⟨hmem, hlt⟩ := kept h
      obtain ⟨p, hp, rfl⟩ := List.mem_map.mp hmem
      exact ⟨⟨nofun, nofun, fun _ => Nat.le_of_lt_succ (List.mem_range.mp hp)⟩, Nat.le_of_lt_succ hlt⟩
    · cases h

theorem toNat_ofNat_le (w x : Nat) : (BitVec.ofNat w x).toNat ≤ x := by
  rw [BitVec.toNat_ofNat]
  exact Nat.mod_le _ _

/-- What CANDGEN writes to ERRCNT and PROD (R271, R275). -/
theorem diagnosticsOk_candgen (t : List Assignment) (ch : Chars) :
    DiagnosticsOk (BitVec.ofNat 4 (missCount t ch)) (feasible t ch).2 := by
  refine ⟨Nat.le_trans (toNat_ofNat_le _ _) (missCount_le t ch), ?_⟩
  unfold feasible
  dsimp only
  split
  · exact .inl (Nat.zero_le _)
  · split
    · exact .inr rfl
    · next hp => exact .inl (Nat.le_trans (toNat_ofNat_le _ _) (Nat.le_of_not_lt hp))

/-! How each phase goes on (R270). -/

/-- The job is a FAIL whose status and reason go together. -/
def Job.Fails (j : Job) : Prop := ∃ st r, Failure st r ∧ j = .fail st r

theorem failure_of_ne_invalid {st : Status} (hs : ¬ st.Success) (hi : st ≠ .invalid) : Failure st .none :=
  ⟨hs, fun h => absurd h hi, fun h => absurd rfl h⟩

theorem failure_invalid {r : Reason} (hr : r ≠ .none) : Failure .invalid r :=
  ⟨by simp [Status.Success], fun _ => hr, fun _ => rfl⟩

theorem failure_formatSymbol : Failure .formatSymbol .none :=
  failure_of_ne_invalid (by simp [Status.Success]) (by decide)

theorem failure_formatLength : Failure .formatLength .none :=
  failure_of_ne_invalid (by simp [Status.Success]) (by decide)

theorem failure_ambiguous : Failure .ambiguous .none :=
  failure_of_ne_invalid (by simp [Status.Success]) (by decide)

theorem failure_unrecoverable : Failure .unrecoverable .none :=
  failure_of_ne_invalid (by simp [Status.Success]) (by decide)

theorem failure_orientation : Failure .orientation .none :=
  failure_of_ne_invalid (by simp [Status.Success]) (by decide)

theorem failure_operand : Failure .operand .none :=
  failure_of_ne_invalid (by simp [Status.Success]) (by decide)

theorem decodeNorm_cases (s : State) :
    (decodeNorm s).Fails ∨ (∃ sy, decodeNorm s = .decodeStrict sy) ∨ ∃ sy, decodeNorm s = .decodeLenscan sy := by
  unfold decodeNorm
  split
  · exact .inl ⟨_, _, failure_formatSymbol, rfl⟩
  · split
    · exact .inr (.inl ⟨_, rfl⟩)
    · split
      · exact .inr (.inr ⟨_, rfl⟩)
      · exact .inl ⟨_, _, failure_formatLength, rfl⟩

theorem decodeStrict_cases (sy : Candidate) (s : State) :
    (∃ r, r.Sound s.tables ∧ decodeStrict sy s = .decodeCommit sy r)
      ∨ ∃ c, c.Placed ∧ decodeStrict sy s = .decodeCandgen c := by
  unfold decodeStrict
  split
  · next r hr => exact .inl ⟨r, decodeChars_sound hr, rfl⟩
  · exact .inr ⟨_, by simp [Corrected.Placed], rfl⟩

theorem decodeLenscan_cases (sy : List Symbol) (s : State) :
    (decodeLenscan sy s).Fails ∨ ∃ c, c.Placed ∧ decodeLenscan sy s = .decodeCandgen c := by
  unfold decodeLenscan
  split
  · exact .inl ⟨_, _, failure_formatLength, rfl⟩
  · next c hc => exact .inr ⟨c, (lengthFix_placed hc).1, rfl⟩

theorem decodeCandgen_cases (c : Corrected) (s : State) :
    decodeCandgen c s = .decodeSearch c ∨ decodeCandgen c s = .decodeFlip c true := by
  unfold decodeCandgen
  split
  · exact .inl rfl
  · exact .inr rfl

theorem decodeSearch_cases (c : Corrected) (s : State) :
    decodeSearch c s = .decodeFlip c false ∨ (∃ r, r.Sound s.tables ∧ decodeSearch c s = .repairCommit c r)
      ∨ (decodeSearch c s).Fails := by
  unfold decodeSearch
  split
  · exact .inl rfl
  · next r hr => exact .inr (.inl ⟨r, solutions_sound (hr ▸ List.mem_singleton_self r), rfl⟩)
  · exact .inr (.inr ⟨_, _, failure_ambiguous, rfl⟩)

theorem decodeFlip_fails (c : Corrected) (infeasible : Bool) (s : State) : (decodeFlip c infeasible s).Fails := by
  unfold decodeFlip
  split
  · exact ⟨_, _, failure_orientation, rfl⟩
  · split
    · exact ⟨_, _, failure_unrecoverable, rfl⟩
    · exact ⟨_, _, failure_invalid failureReason_ne_none, rfl⟩

theorem lenfixNorm_cases (s : State) : (lenfixNorm s).Fails ∨ ∃ sy, lenfixNorm s = .lenfixScan sy := by
  unfold lenfixNorm
  split
  · exact .inl ⟨_, _, failure_formatSymbol, rfl⟩
  · exact .inr ⟨_, rfl⟩

theorem lenfixScan_cases (sy : List Symbol) (s : State) :
    (lenfixScan sy s).Fails ∨ ∃ c, (c.Placed ∧ c.misses ≤ 4) ∧ lenfixScan sy s = .lenfixCommit c := by
  unfold lenfixScan
  split
  · exact .inl ⟨_, _, failure_formatLength, rfl⟩
  · next c hc => exact .inr ⟨c, lengthFix_placed hc, rfl⟩

theorem bitfixCandgen_cases (s : State) : bitfixCandgen s = .bitfixSearch ∨ (bitfixCandgen s).Fails := by
  unfold bitfixCandgen
  split
  · exact .inl rfl
  · exact .inr ⟨_, _, failure_unrecoverable, rfl⟩

theorem bitfixSearch_cases (s : State) :
    (bitfixSearch s).Fails ∨ ∃ ch, bitfixSearch s = .bitfixCommit ch := by
  unfold bitfixSearch
  split
  · exact .inl ⟨_, _, failure_invalid (bitfixReason_ne_none _ _), rfl⟩
  · exact .inr ⟨_, rfl⟩
  · exact .inl ⟨_, _, failure_ambiguous, rfl⟩

end Sys2Proof.Machine
end

section
/-! PROOFS. How a run of the sequencer ends, phase by phase from the last (`47_repair.md` R270, R273, R277,
`46_encode_decode.md` R253). -/

namespace Sys2Proof.Machine

theorem runJob_succ (k : Nat) (j : Job) (s : State) : runJob (k + 1) (j, s) = runJob k (advance j s) := rfl

@[simp] theorem runJob_idle (k : Nat) (s : State) : runJob k (.idle, s) = s := by
  induction k with
  | zero => rfl
  | succ k ih => exact ih

/-- The states a DECODE can end in, from the state `s` its outputs are cleared in (R253): a failure, a commit of what
was read, a commit of a repair; ERRCNT and PROD are as CANDGEN left them. -/
inductive DecodeEnds (s : State) : State → Prop
  | fails {st : Status} {r : Reason} {e : BitVec 4} {p : BitVec 11} (hf : Failure st r) (hd : DiagnosticsOk e p) :
    DecodeEnds s (raise st r { s with errcnt := e, prod := p })
  | reads {r : Decoded} {e : BitVec 4} {p : BitVec 11} (sy : Candidate) (hr : r.Sound s.tables)
    (hd : DiagnosticsOk e p) : DecodeEnds s (complete (commitDecoded sy r { s with errcnt := e, prod := p }))
  | repairs {c : Corrected} {r : Decoded} {e : BitVec 4} {p : BitVec 11} (hc : c.Placed) (hr : r.Sound s.tables)
    (hd : DiagnosticsOk e p) :
    DecodeEnds s (raise .okRepaired .none (commitRepaired c r { s with errcnt := e, prod := p }))

/-- The ends of a DECODE carry their own ERRCNT and PROD, so CANDGEN's writes do not matter to them. -/
theorem DecodeEnds.of_writeDiagnostics {ch : Chars} {s t : State} (h : DecodeEnds (writeDiagnostics ch s) t) :
    DecodeEnds s t := by
  cases h with
  | fails hf hd => exact .fails hf hd
  | reads sy hr hd => exact .reads sy hr hd
  | repairs hc hr hd => exact .repairs hc hr hd

/-- Entering a FAIL phase, a run raises and writes nothing else. -/
theorem Job.Fails.run {j : Job} (h : j.Fails) (k : Nat) (s : State) :
    ∃ st r, Failure st r ∧ runJob (k + 1) (enter j s) = raise st r s := by
  obtain ⟨st, r, hf, rfl⟩ := h
  exact ⟨st, r, hf, runJob_idle k _⟩

section
variable {s : State} (hd : DiagnosticsOk s.errcnt s.prod)
include hd

theorem Job.Fails.decodeEnds {j : Job} (h : j.Fails) (k : Nat) : DecodeEnds s (runJob (k + 1) (enter j s)) := by
  obtain ⟨st, r, hf, hrun⟩ := h.run k s
  rw [hrun]
  exact .fails hf hd

theorem decodeFlip_ends (k : Nat) (c : Corrected) (infeasible : Bool) :
    DecodeEnds s (runJob (k + 2) (enter (.decodeFlip c infeasible) s)) :=
  (decodeFlip_fails c infeasible (setPhase .flip s)).decodeEnds hd k

theorem decodeSearch_ends (k : Nat) {c : Corrected} (hc : c.Placed) :
    DecodeEnds s (runJob (k + 3) (enter (.decodeSearch c) s)) := by
  show DecodeEnds s (runJob (k + 2) (enter (decodeSearch c (setPhase .search s)) s))
  rcases decodeSearch_cases c (setPhase .search s) with h | ⟨r, hr, h⟩ | h
  · rw [h]
    exact decodeFlip_ends hd k c false
  · rw [h, runJob_succ]
    show DecodeEnds s (runJob (k + 1) (.idle, raise .okRepaired .none (commitRepaired c r s)))
    rw [runJob_idle]
    exact .repairs hc hr hd
  · exact h.decodeEnds hd (k + 1)

end

theorem decodeCandgen_ends (k : Nat) {c : Corrected} (hc : c.Placed) (s : State) :
    DecodeEnds s (runJob (k + 4) (enter (.decodeCandgen c) s)) := by
  have hd := diagnosticsOk_candgen s.tables (symsToChars c.cand)
  apply DecodeEnds.of_writeDiagnostics (ch := symsToChars c.cand)
  show DecodeEnds _ (runJob (k + 3) (enter (decodeCandgen c (setPhase .candgen s))
    (writeDiagnostics (symsToChars c.cand) s)))
  rcases decodeCandgen_cases c (setPhase .candgen s) with h | h
  · rw [h]
    exact decodeSearch_ends hd k hc
  · rw [h]
    exact decodeFlip_ends hd (k + 1) c true

section
variable {s : State} (hd : DiagnosticsOk s.errcnt s.prod)
include hd

theorem decodeStrict_ends (k : Nat) (sy : Candidate) :
    DecodeEnds s (runJob (k + 5) (enter (.decodeStrict sy) s)) := by
  show DecodeEnds s (runJob (k + 4) (enter (decodeStrict sy (setPhase .strict s)) s))
  rcases decodeStrict_cases sy (setPhase .strict s) with ⟨r, hr, h⟩ | ⟨c, hc, h⟩
  · rw [h, runJob_succ]
    show DecodeEnds s (runJob (k + 3) (.idle, complete (commitDecoded sy r s)))
    rw [runJob_idle]
    exact .reads sy hr hd
  · rw [h]
    exact decodeCandgen_ends k hc s

theorem decodeLenscan_ends (k : Nat) (sy : List Symbol) :
    DecodeEnds s (runJob (k + 5) (enter (.decodeLenscan sy) s)) := by
  show DecodeEnds s (runJob (k + 4) (enter (decodeLenscan sy (setPhase .lenscan s)) s))
  rcases decodeLenscan_cases sy (setPhase .lenscan s) with h | ⟨c, hc, h⟩
  · exact h.decodeEnds hd (k + 3)
  · rw [h]
    exact decodeCandgen_ends k hc s

theorem decodeNorm_ends : DecodeEnds s (runJob maxTransitions (enter .decodeNorm s)) := by
  show DecodeEnds s (runJob 5 (enter (decodeNorm (setPhase .norm s)) s))
  rcases decodeNorm_cases (setPhase .norm s) with h | ⟨sy, h⟩ | ⟨sy, h⟩
  · exact h.decodeEnds hd 4
  · rw [h]
    exact decodeStrict_ends hd 0 sy
  · rw [h]
    exact decodeLenscan_ends hd 0 sy

end

/-- LENFIX raises a failure, or commits a length correction (R273). -/
theorem lenfixNorm_ends (s : State) :
    (∃ st r, Failure st r ∧ runJob maxTransitions (enter .lenfixNorm s) = raise st r s)
      ∨ ∃ c, (c.Placed ∧ c.misses ≤ 4)
          ∧ runJob maxTransitions (enter .lenfixNorm s) = complete (commitLength c s) := by
  have hnorm : runJob maxTransitions (enter .lenfixNorm s)
      = runJob 5 (enter (lenfixNorm (setPhase .norm s)) s) := rfl
  rw [hnorm]
  rcases lenfixNorm_cases (setPhase .norm s) with h | ⟨sy, h⟩
  · exact .inl (h.run 4 s)
  · have hscan : runJob 5 (enter (.lenfixScan sy) s)
        = runJob 4 (enter (lenfixScan sy (setPhase .lenscan s)) s) := rfl
    rw [h, hscan]
    rcases lenfixScan_cases sy (setPhase .lenscan s) with h | ⟨c, hc, h⟩
    · exact .inl (h.run 3 s)
    · rw [h]
      exact .inr ⟨c, hc, runJob_idle 3 _⟩

/-- BITFIX raises a failure, or commits repaired characters, after CANDGEN's writes (R277). -/
theorem bitfixCandgen_ends (s : State) :
    (∃ st r, Failure st r ∧ runJob maxTransitions (enter .bitfixCandgen s) = raise st r (writeDiagnostics s.ch s))
      ∨ ∃ ch, runJob maxTransitions (enter .bitfixCandgen s)
          = complete { writeDiagnostics s.ch s with ch := ch } := by
  have hcandgen : runJob maxTransitions (enter .bitfixCandgen s)
      = runJob 5 (enter (bitfixCandgen (setPhase .candgen s)) (writeDiagnostics s.ch s)) := rfl
  rw [hcandgen]
  rcases bitfixCandgen_cases (setPhase .candgen s) with h | h
  · have hsearch : runJob 5 (enter .bitfixSearch (writeDiagnostics s.ch s))
        = runJob 4 (enter (bitfixSearch (setPhase .search (writeDiagnostics s.ch s))) (writeDiagnostics s.ch s)) := rfl
    rw [h, hsearch]
    rcases bitfixSearch_cases (setPhase .search (writeDiagnostics s.ch s)) with h | ⟨ch, h⟩
    · exact .inl (h.run 3 _)
    · rw [h]
      exact .inr ⟨ch, runJob_idle 3 _⟩
  · exact .inl (h.run 4 _)

end Sys2Proof.Machine
end

section
/-! PROOFS. What every command can do, said once: the relation between the state a command starts from and the states
it can end in (`60_exceptions.md` R301). -/

namespace Sys2Proof.Machine

/-- The states a command can end in, started in `s`: one constructor for each command that succeeds, and the
failures. The values a command computes stand here only as far as the registers' ranges and R23's relation need
them. -/
inductive Ends (s : State) : Instr → State → Prop
  /-- A failure before anything is written (R301). -/
  | fails {i : Instr} {st : Status} {r : Reason} (hf : Failure st r) : Ends s i (raise st r s)
  /-- A failure with the tables built and nothing else written (R126, R301). -/
  | failsBuilt {i : Instr} {st : Status} {r : Reason} (hf : Failure st r) : Ends s i (raise st r (ensureTables s))
  | tblbuild : Ends s .tblbuild (complete (ensureTables s))
  | mpclr : Ends s .mpclr (complete { s with num := Vector.replicate 10 0 })
  | mpisz : Ends s .mpisz (complete (setZ (mpIszero s.num) s))
  | mpadd {b : BitVec 32} (ovf : Bool) (num : Number) : Ends s (.mpadd b) (complete (setOvf ovf { s with num := num }))
  | mpsub {b : BitVec 32} (ovf : Bool) (num : Number) : Ends s (.mpsub b) (complete (setOvf ovf { s with num := num }))
  | mpmuladd {a : BitVec 20} {b : BitVec 32} (ovf : Bool) (num : Number) :
    Ends s (.mpmuladd a b) (complete (setOvf ovf { s with num := num }))
  | mpdivmod {a : BitVec 20} (num : Number) (rem : BitVec 20) :
    Ends s (.mpdivmod a) (complete { s with num := num, rem := rem })
  | fcscalc : Ends s .fcscalc (complete { s with fcs := calcfcs s.num })
  | loadtxt (sy : Candidate) : Ends s .loadtxt (complete { s with cand := sy })
  | permfwd : Ends s .permfwd (complete { s with ch := symsToChars s.cand })
  | perminv : Ends s .perminv (complete (putSymbols (charsToSyms s.ch) s))
  | flipad : Ends s .flipad (complete { s with cand := flipCandidate s.cand })
  | cwenc {r : CwEncoded} (hr : cwEncode (ensureTables s).tables s.num = some r) :
    Ends s .cwenc (complete { ensureTables s with cw := r.cw, fcs := r.fcs, ch := r.ch, num := r.rest })
  | cwdecFails {r : Reason} (hf : Failure .invalid r) :
    Ends s .cwdec
      (raise .invalid r { ensureTables s with errcnt := BitVec.ofNat 4 (missCount (ensureTables s).tables s.ch) })
  | cwdec {r : CwDecoded} (hr : cwDecode (ensureTables s).tables s.ch = .ok r) :
    Ends s .cwdec
      (complete
        { ensureTables s with
          errcnt := BitVec.ofNat 4 (missCount (ensureTables s).tables s.ch)
          cw := r.cw
          rfcs := r.fcs
          fcs := r.fcs
          num := r.num })
  | pack (num : Number) : Ends s .pack (complete { s with num := num })
  | unpack (num : Number) : Ends s .unpack (complete { writeRecord (unpack s.num).record s with num := num })
  | encode {num : Number} {r : CwEncoded} (hr : cwEncode (ensureTables s).tables num = some r) :
    Ends s .encode
      (complete
        (putSymbols (charsToSyms r.ch) { ensureTables s with num := num, cw := r.cw, fcs := r.fcs, ch := r.ch }))
  | decode {t : State} (ht : DecodeEnds (clearDecodeOutputs (ensureTables s)) t) : Ends s .decode t
  | lenfix {c : Corrected} (hc : c.Placed) (hm : c.misses ≤ 4) :
    Ends s .lenfix (complete (commitLength c (ensureTables s)))
  | bitfixFails {st : Status} {r : Reason} (hf : Failure st r) :
    Ends s .bitfix (raise st r (writeDiagnostics s.ch (ensureTables s)))
  | bitfix (ch : Chars) : Ends s .bitfix (complete { writeDiagnostics s.ch (ensureTables s) with ch := ch })

/-- Validation fails with one of its own codes (R223). -/
theorem failure_validate {r : Record} {st : Status} (h : validate r = some st) : Failure st .none := by
  unfold validate at h
  repeat' split at h
  all_goals cases h
  all_goals exact failure_of_ne_invalid (by simp [Status.Success]) (by simp)

section
variable {s t : State}

theorem execMpdivmod_ends {a : BitVec 20} (h : execMpdivmod a s = .next t) : Ends s (.mpdivmod a) t := by
  unfold execMpdivmod at h
  split at h
  · cases h; exact .fails failure_operand
  · cases h; exact .mpdivmod _ _

theorem execLoadtxt_ends (h : execLoadtxt s = .next t) : Ends s .loadtxt t := by
  unfold execLoadtxt at h
  split at h
  · cases h; exact .fails failure_formatSymbol
  · split at h
    · cases h; exact .loadtxt _
    · cases h; exact .fails failure_formatLength

theorem execCwenc_ends (h : execCwenc s = .next t) : Ends s .cwenc t := by
  unfold execCwenc at h
  dsimp only at h
  split at h
  · cases h; exact .failsBuilt failure_operand
  · next hr => cases h; exact .cwenc hr

theorem execCwdec_ends (h : execCwdec s = .next t) : Ends s .cwdec t := by
  unfold execCwdec at h
  dsimp only at h
  split at h
  · next hr => cases h; exact .cwdecFails (failure_invalid (cwDecode_error hr))
  · next hr => cases h; exact .cwdec hr

theorem execPack_ends (h : execPack s = .next t) : Ends s .pack t := by
  unfold execPack at h
  split at h
  · next hv => cases h; exact .fails (failure_validate hv)
  · cases h; exact .pack _

theorem execUnpack_ends (h : execUnpack s = .next t) : Ends s .unpack t := by
  unfold execUnpack at h
  dsimp only at h
  split at h
  · cases h; exact .fails (failure_invalid (by decide))
  · cases h; exact .unpack _

theorem execEncode_ends (h : execEncode s = .next t) : Ends s .encode t := by
  unfold execEncode at h
  dsimp only at h
  split at h
  · next hv => cases h; exact .failsBuilt (failure_validate hv)
  · split at h
    · cases h; exact .failsBuilt failure_operand
    · next hr => cases h; exact .encode hr

theorem execDecode_ends (h : execDecode s = .next t) : Ends s .decode t := by
  cases h
  exact .decode (decodeNorm_ends ⟨Nat.zero_le _, .inl (Nat.zero_le _)⟩)

theorem execLenfix_ends (h : execLenfix s = .next t) : Ends s .lenfix t := by
  cases h
  rcases lenfixNorm_ends (ensureTables s) with ⟨st, r, hf, h⟩ | ⟨c, ⟨hc, hm⟩, h⟩
  · exact h ▸ .failsBuilt hf
  · exact h ▸ .lenfix hc hm

theorem execBitfix_ends (h : execBitfix s = .next t) : Ends s .bitfix t := by
  cases h
  rcases bitfixCandgen_ends (ensureTables s) with ⟨st, r, hf, h⟩ | ⟨ch, h⟩
  · exact h ▸ .bitfixFails hf
  · exact h ▸ .bitfix ch

/-- Every command ends in a state that `Ends` allows it. -/
theorem exec_ends {i : Instr} (h : exec i s = .next t) : Ends s i t := by
  cases i with
  | tblbuild => cases h; exact .tblbuild
  | mpclr => cases h; exact .mpclr
  | mpisz => cases h; exact .mpisz
  | mpadd b => cases h; exact .mpadd _ _
  | mpsub b => cases h; exact .mpsub _ _
  | mpmuladd a b => cases h; exact .mpmuladd _ _
  | mpdivmod a => exact execMpdivmod_ends h
  | fcscalc => cases h; exact .fcscalc
  | loadtxt => exact execLoadtxt_ends h
  | permfwd => cases h; exact .permfwd
  | perminv => cases h; exact .perminv
  | flipad => cases h; exact .flipad
  | cwenc => exact execCwenc_ends h
  | cwdec => exact execCwdec_ends h
  | pack => exact execPack_ends h
  | unpack => exact execUnpack_ends h
  | encode => exact execEncode_ends h
  | decode => exact execDecode_ends h
  | lenfix => exact execLenfix_ends h
  | bitfix => exact execBitfix_ends h

end

end Sys2Proof.Machine
end

section
/-! PROOFS. The indices of the built tables (`40_tables.md` R122 to R124, R127): each class fills its own range, no
index is given twice, and so ENC reads back the pattern an index stands for. -/

namespace Sys2Proof.Machine

/-! R122's loop, a value at a time. -/

theorem assignFrom_of_palindrome {v : Nat} (h : BitVec.ofNat 13 v = rev13 (BitVec.ofNat 13 v)) (vs : List Nat)
    (lo hi : Nat) :
    assignFrom (v :: vs) lo hi = ⟨BitVec.ofNat 11 hi, BitVec.ofNat 13 v⟩ :: assignFrom vs lo (hi - 1) :=
  if_pos h

theorem assignFrom_of_lt {v : Nat} (h : BitVec.ofNat 13 v < rev13 (BitVec.ofNat 13 v)) (vs : List Nat) (lo hi : Nat) :
    assignFrom (v :: vs) lo hi
      = ⟨BitVec.ofNat 11 lo, BitVec.ofNat 13 v⟩ :: ⟨BitVec.ofNat 11 (lo + 1), rev13 (BitVec.ofNat 13 v)⟩
          :: assignFrom vs (lo + 2) hi :=
  (if_neg (BitVec.ne_of_lt h)).trans (if_pos h)

theorem assignFrom_of_gt {v : Nat} (hne : BitVec.ofNat 13 v ≠ rev13 (BitVec.ofNat 13 v))
    (hge : ¬ BitVec.ofNat 13 v < rev13 (BitVec.ofNat 13 v)) (vs : List Nat) (lo hi : Nat) :
    assignFrom (v :: vs) lo hi = assignFrom vs lo hi :=
  (if_neg hne).trans (if_neg hge)

theorem toNat_ofNat_index {k hi : Nat} (hk : k ≤ hi) (hhi : hi < 2048) : (BitVec.ofNat 11 k).toNat = k := by
  rw [BitVec.toNat_ofNat, Nat.mod_eq_of_lt (Nat.lt_of_le_of_lt hk hhi)]

/-- Every index of `t` lies between `lo` and `hi`, and none is given twice. -/
def IndexedIn (lo hi : Nat) (t : List Assignment) : Prop :=
  (∀ a ∈ t, lo ≤ a.index.toNat ∧ a.index.toNat ≤ hi) ∧ t.Pairwise fun a b => a.index.toNat ≠ b.index.toNat

/-- The two ends of R122's loop do not meet, as long as a class has no more entries than indices. -/
theorem assignFrom_index (vs : List Nat) (lo hi : Nat) (hhi : hi < 2048)
    (hfit : lo + (assignFrom vs lo hi).length ≤ hi + 1) :
    IndexedIn lo hi (assignFrom vs lo hi) := by
  induction vs generalizing lo hi with
  | nil => exact ⟨nofun, List.Pairwise.nil⟩
  | cons v vs ih =>
    by_cases hpal : BitVec.ofNat 13 v = rev13 (BitVec.ofNat 13 v)
    · rw [assignFrom_of_palindrome hpal, List.length_cons] at hfit
      rw [assignFrom_of_palindrome hpal, IndexedIn, List.pairwise_cons, List.forall_mem_cons,
        toNat_ofNat_index le_rfl hhi]
      obtain ⟨hrange, hdistinct⟩ := ih lo (hi - 1) (by omega) (by omega)
      have hmem : ∀ a ∈ assignFrom vs lo (hi - 1), 0 < (assignFrom vs lo (hi - 1)).length :=
        fun a ha => List.length_pos_of_mem ha
      refine ⟨⟨by omega, fun a ha => ?_⟩, fun a ha => ?_, hdistinct⟩
      · have := hrange a ha
        omega
      · have := hrange a ha
        have := hmem a ha
        omega
    · by_cases hlt : BitVec.ofNat 13 v < rev13 (BitVec.ofNat 13 v)
      · rw [assignFrom_of_lt hlt, List.length_cons, List.length_cons] at hfit
        obtain ⟨hrange, hdistinct⟩ := ih (lo + 2) hi hhi (by omega)
        rw [assignFrom_of_lt hlt, IndexedIn, List.pairwise_cons, List.pairwise_cons, List.forall_mem_cons,
          List.forall_mem_cons, List.forall_mem_cons, toNat_ofNat_index (k := lo) (by omega) hhi,
          toNat_ofNat_index (k := lo + 1) (by omega) hhi]
        refine ⟨⟨by omega, by omega, fun a ha => ?_⟩, ⟨by omega, fun a ha => ?_⟩, fun a ha => ?_, hdistinct⟩ <;>
        · have := hrange a ha
          omega
      · rw [assignFrom_of_gt hpal hlt] at hfit ⊢
        exact ih lo hi hhi hfit

/-! The classes and the whole build (R124). -/

theorem length_buildClass_five : (buildClass 5 0 1286).length = 1287 := by decide +kernel

theorem length_buildClass_two : (buildClass 2 1287 1364).length = 78 := by decide +kernel

theorem buildClass_five_index : IndexedIn 0 1286 (buildClass 5 0 1286) :=
  assignFrom_index _ 0 1286 (by decide) ((Nat.zero_add _).trans_le length_buildClass_five.le)

theorem buildClass_two_index : IndexedIn 1287 1364 (buildClass 2 1287 1364) :=
  assignFrom_index _ 1287 1364 (by decide) (Nat.add_le_add_left length_buildClass_two.le 1287)

/-- Every index of the built tables is a legal codeword (R23, R129). -/
theorem index_le_of_mem_builtTables {a : Assignment} (ha : a ∈ builtTables) : a.index.toNat ≤ 1364 := by
  rcases List.mem_append.mp ha with h | h
  · exact (buildClass_five_index.1 a h).2.trans (by omega)
  · exact (buildClass_two_index.1 a h).2

/-- No index of the built tables is given twice (R127). -/
theorem pairwise_index_builtTables : builtTables.Pairwise fun a b => a.index.toNat ≠ b.index.toNat := by
  refine List.pairwise_append.mpr ⟨buildClass_five_index.2, buildClass_two_index.2, fun a ha b hb => ?_⟩
  have := (buildClass_five_index.1 a ha).2
  have := (buildClass_two_index.1 b hb).1
  omega

/-! Reads of tables whose indices are distinct. -/

/-- In a list of distinct indices, looking for an assignment's index finds that assignment. -/
theorem find?_index {t : List Assignment} (ht : t.Pairwise fun a b => a.index.toNat ≠ b.index.toNat)
    {a : Assignment} (ha : a ∈ t) : (t.find? fun b => b.index == a.index) = some a := by
  induction t with
  | nil => cases ha
  | cons b t ih =>
    obtain ⟨hb, ht⟩ := List.pairwise_cons.mp ht
    rcases List.mem_cons.mp ha with rfl | ha
    · simp
    · have hne : b.index ≠ a.index := fun h => hb a ha (congrArg BitVec.toNat h)
      simpa [hne] using ih ht ha

/-- ENC at an assigned index is the assigned pattern (R123). -/
theorem encRead_index {a : Assignment} (ha : a ∈ builtTables) : encRead builtTables a.index = a.pattern := by
  rw [encRead, find?_index pairwise_index_builtTables ha]

/-- A populated entry of DEC is the index of an assignment of the pattern or of its complement (R123). -/
theorem assignmentOf_some {t : List Assignment} {p : Char13} {a : Assignment} (h : assignmentOf t p = some a) :
    a ∈ t ∧ (a.pattern = p ∨ a.pattern = complement13 p) := by
  refine ⟨List.mem_of_find?_eq_some h, ?_⟩
  simpa using List.find?_some h

theorem decRead_some {t : List Assignment} {p : Char13} {k : Index} (h : decRead t p = some k) :
    ∃ a, assignmentOf t p = some a ∧ k = a.index := by
  unfold decRead at h
  split at h
  · next a ha => cases h; exact ⟨a, ha, rfl⟩
  · cases h

/-- Every index DEC holds is a legal codeword (R23). -/
theorem decRead_le {p : Char13} {k : Index} (h : decRead builtTables p = some k) : k.toNat ≤ 1364 := by
  obtain ⟨a, ha, rfl⟩ := decRead_some h
  exact index_le_of_mem_builtTables (assignmentOf_some ha).1

/-- ENC and FCT give back the pattern that DEC looked up (R127). -/
theorem encRead_of_decRead {p : Char13} {k : Index} (h : decRead builtTables p = some k) :
    encRead builtTables k ^^^ (if fctRead builtTables p then 8191 else 0) = p := by
  obtain ⟨a, ha, rfl⟩ := decRead_some h
  obtain ⟨hmem, hp⟩ := assignmentOf_some ha
  rw [encRead_index hmem, fctRead, ha]
  by_cases he : a.pattern = p
  · simp [he]
  · have hc : a.pattern = p ^^^ 8191 := hp.resolve_left he
    simp [hc]

end Sys2Proof.Machine
end

section
/-! PROOFS. The legal states (`10_state.md` R23 to R39): the ranges of the registers, one rule for each update of the
state, and that every step keeps them. -/

namespace Sys2Proof.Machine

/-- The registers' ranges and the tables, whatever STATUS, REASON and SEQ hold: completed now, the state is legal. -/
def State.Ranges (s : State) : Prop := (complete s).Inv

/-- `t` with the registers of `s` that the legal states have a range for. -/
def State.withRangedOf (t s : State) : State :=
  { t with
    txtlen := s.txtlen
    rlen := s.rlen
    cw := s.cw
    errcnt := s.errcnt
    prod := s.prod
    lfk := s.lfk
    lfp := s.lfp
    sug := s.sug
    tblrdy := s.tblrdy
    tables := s.tables }

/-! What a legal state is, from the ranges. -/

theorem State.Inv.ranges {s : State} (h : s.Inv) : s.Ranges :=
  { h with seqIdle := rfl, invalidReason := nofun, reasonOnly := fun hr => absurd rfl hr }

section
variable {s : State} (h : s.Ranges)
include h

/-- A command that ends with INVALID exactly when it gives a reason ends in a legal state (R30, R301). -/
theorem State.Ranges.raise {st : Status} {r : Reason} (hr : st = .invalid ↔ r ≠ .none) : (raise st r s).Inv :=
  { h with seqIdle := rfl, invalidReason := hr.mp, reasonOnly := fun hn => .inl (hr.mpr hn) }

/-- What leaves STATUS, REASON and SEQ alone keeps a legal state legal if it keeps the ranges. -/
theorem State.Ranges.inv_of_control {s₀ : State} (h₀ : s₀.Inv) (hseq : s.seq = s₀.seq)
    (hstatus : s.status = s₀.status) (hreason : s.reason = s₀.reason) : s.Inv :=
  { h with
    seqIdle := hseq.trans h₀.seqIdle
    invalidReason := by rw [hstatus, hreason]; exact h₀.invalidReason
    reasonOnly := by rw [hstatus, hreason]; exact h₀.reasonOnly }

/-! One rule for each update. -/

/-- A register without a range may take any value. -/
theorem State.Ranges.of_ranged {t : State} (ht : t = t.withRangedOf s) : t.Ranges := by
  rw [ht]
  exact { h with
    seqIdle := rfl
    invalidReason := nofun
    reasonOnly := fun hr => absurd rfl hr }

theorem State.Ranges.ensureTables : (ensureTables s).Ranges :=
  { h with tables := tablesOk_ensureTables s h.tables }

theorem State.Ranges.txtlen_le {n : BitVec 8} (hn : n.toNat ≤ Config.txtCap) : { s with txtlen := n }.Ranges :=
  { h with txtlen := hn }

theorem State.Ranges.rlen_le {v : Vector (BitVec 6) 7} (hv : ∀ f : Fin 7, v[f].toNat ≤ Config.fieldCap) :
    { s with rlen := v }.Ranges :=
  { h with rlen := hv }

theorem State.Ranges.cw_le {cw : Codewords} (hcw : ∀ n : Fin 10, cw[n].toNat ≤ 1364) : { s with cw := cw }.Ranges :=
  { h with cw := hcw }

theorem State.Ranges.diagnostics {e : BitVec 4} {p : BitVec 11} (hd : DiagnosticsOk e p) :
    { s with errcnt := e, prod := p }.Ranges :=
  { h with errcnt := hd.1, prod := hd.2 }

theorem State.Ranges.errcnt_le {e : BitVec 4} (he : e.toNat ≤ 10) : { s with errcnt := e }.Ranges :=
  { h with errcnt := he }

theorem State.Ranges.correction {c : Corrected} (hc : c.Placed) :
    { s with lfk := c.kind, lfp := BitVec.ofNat 7 c.pos }.Ranges :=
  { h with
    lfp := ⟨fun hk => congrArg (BitVec.ofNat 7) (hc.1 hk), fun hk => (toNat_ofNat_le _ _).trans (hc.2.1 hk),
      fun hk => (toNat_ofNat_le _ _).trans (hc.2.2 hk)⟩ }

theorem State.Ranges.suggestion {v : Vector Byte 65} (hv : ∀ i : Fin 65, v[i] ∈ suggestionBytes) :
    { s with sug := v }.Ranges :=
  { h with sug := hv }

end

/-! The values the commands write. -/

theorem symbolByte_mem (sy : Symbol) : symbolByte sy ∈ suggestionBytes := by
  cases sy <;> decide

/-- Every register of a file made from a list satisfies what the fill and the list's elements do. -/
theorem forall_vecFrom {α : Type} {P : α → Prop} {n : Nat} {fill : α} {l : List α} (hfill : P fill)
    (hl : ∀ a ∈ l, P a) (i : Fin n) : P (vecFrom n fill l)[i] := by
  rw [Fin.getElem_fin, getElem_vecFrom, List.getD_eq_getElem?_getD]
  cases hi : l[i.val]? with
  | none => exact hfill
  | some a => exact hl a (List.mem_of_getElem? hi)

theorem takeDigits_lt {d : Nat} (hd : 0 < d) (k : Nat) (num : Number) {x : Nat} (hx : x ∈ (takeDigits d k num []).2) :
    x < d := by
  rw [(takeDigits_spec d hd k num []).2, List.append_nil] at hx
  obtain ⟨j, -, rfl⟩ := List.mem_map.mp hx
  exact Nat.mod_lt _ hd

/-- The codewords of `cw_encode` are at most 658 + 659, 1364 and 2 * 635 (R201). -/
theorem cwEncode_cw_le {t : List Assignment} {num : Number} {r : CwEncoded} (h : cwEncode t num = some r) (n : Fin 10) :
    r.cw[n].toNat ≤ 1364 := by
  unfold cwEncode at h
  dsimp only at h
  split at h
  · cases h
  · next htop =>
    cases h
    refine forall_vecFrom (P := fun w : Index => w.toNat ≤ 1364) (Nat.zero_le _) (fun w hw => ?_) n
    obtain ⟨x, hx, rfl⟩ := List.mem_map.mp hw
    refine (toNat_ofNat_le _ _).trans ?_
    rcases List.mem_append.mp hx with hx | hx
    · rcases List.mem_cons.mp hx with rfl | hx
      · simp only [Config.cw0Offset]
        split <;> omega
      · exact Nat.le_of_lt_succ (takeDigits_lt (by decide) 8 _ hx)
    · have hlast := (mpDivmod_spec num Config.divLast (by decide)).2
      have := Nat.mod_lt (numVal num) (show 0 < Config.divLast by decide)
      rw [List.mem_singleton.mp hx, hlast]
      simp only [Config.divLast] at this ⊢
      omega

/-- The codewords of `cw_decode` are indices of the tables (R203). -/
theorem cwDecode_cw_le {ch : Chars} {r : CwDecoded} (h : cwDecode builtTables ch = .ok r) (n : Fin 10) :
    r.cw[n].toNat ≤ 1364 := by
  obtain ⟨-, hcw, -⟩ := cwDecode_ok _ _ _ h
  rw [hcw, lookupAll, Fin.getElem_fin, Vector.getElem_ofFn]
  cases hk : decRead builtTables ch[n] with
  | none => exact Nat.zero_le _
  | some k => exact decRead_le hk

theorem Decoded.Sound.cw_le {r : Decoded} (h : r.Sound builtTables) (n : Fin 10) : r.cw[n].toNat ≤ 1364 := by
  obtain ⟨d, hd, -, hr⟩ := decodeChars_ok _ _ _ h
  rw [hr]
  exact cwDecode_cw_le hd n

/-- Every field of the record fits its buffer (R26). -/
def Record.Fits (r : Record) : Prop := ∀ f : Fin 7, (recordFields r)[f].length ≤ Config.fieldCap

/-- Fields cut from 20 tracking digits fit (R226). -/
theorem splitFields_fits {tracking : List Byte} (h : tracking.length = 20) (route : List Byte) :
    (splitFields tracking route).Fits := by
  have hmailer : (if tracking.getD 5 0x30 = 0x39 then 9 else 6) ≤ 9 := by split <;> decide
  intro f
  fin_cases f <;>
    simp only [splitFields, recordFields, Fin.getElem_fin, Vector.getElem_mk, List.getElem_toArray,
      List.getElem_cons_zero, List.getElem_cons_succ, List.length_take, List.length_drop, Config.fieldCap] <;>
    omega

theorem unpack_fits (num : Number) : (unpack num).record.Fits := by
  refine splitFields_fits ?_ _
  have hlow : (takeDigits 10 18 num []).2.length = 18 := by
    rw [(takeDigits_spec 10 (by decide) 18 num []).2]
    simp
  simp [hlow]

theorem Decoded.Sound.record_fits {t : List Assignment} {r : Decoded} (h : r.Sound t) : r.record.Fits := by
  obtain ⟨d, -, -, hr⟩ := decodeChars_ok _ _ _ h
  rw [hr]
  exact unpack_fits d.num

/-! A host write (R66, R67). -/

theorem storeReg_txtlen (d : RegData) (s : State) :
    storeReg d s .txtlen = if (d.setWidth 8).toNat ≤ Config.txtCap then { s with txtlen := d.setWidth 8 } else s :=
  rfl

theorem storeReg_rlen (d : RegData) (s : State) (f : Fin 7) :
    storeReg d s (.rlen f)
      = if (d.setWidth 6).toNat ≤ Config.fieldCap then { s with rlen := s.rlen.set f (d.setWidth 6) } else s :=
  rfl

/-- A host write reaches the writable registers of R64 only. -/
theorem storeReg_frame (d : RegData) (s : State) (r : Reg) :
    storeReg d s r
      = { s with
          num := (storeReg d s r).num
          ch := (storeReg d s r).ch
          txt := (storeReg d s r).txt
          txtlen := (storeReg d s r).txtlen
          recb := (storeReg d s r).recb
          rlen := (storeReg d s r).rlen } := by
  cases r with
  | txtlen => rw [storeReg_txtlen]; split <;> rfl
  | rlen f => rw [storeReg_rlen]; split <;> rfl
  | status | reason | flags | rem | fcs | rfcs | errcnt | prod | lenfix | seq | num i | ch n | cw n | hl k | txt i
  | cand i | sug i | recb f i | perm i | enc k | dec p => rfl

@[simp] theorem storeReg_seq (d : RegData) (s : State) (r : Reg) : (storeReg d s r).seq = s.seq := by
  rw [storeReg_frame]

@[simp] theorem storeReg_status (d : RegData) (s : State) (r : Reg) : (storeReg d s r).status = s.status := by
  rw [storeReg_frame]

@[simp] theorem storeReg_reason (d : RegData) (s : State) (r : Reg) : (storeReg d s r).reason = s.reason := by
  rw [storeReg_frame]

@[simp] theorem storeReg_tblrdy (d : RegData) (s : State) (r : Reg) : (storeReg d s r).tblrdy = s.tblrdy := by
  rw [storeReg_frame]

@[simp] theorem storeReg_tables (d : RegData) (s : State) (r : Reg) : (storeReg d s r).tables = s.tables := by
  rw [storeReg_frame]

/-! The operations that write ranged registers. -/

section
variable {s : State} (h : s.Ranges)
include h

theorem State.Ranges.writeRecord {r : Record} (hr : r.Fits) : (writeRecord r s).Ranges := by
  refine (h.rlen_le (v := (Machine.writeRecord r s).rlen) fun f => ?_).of_ranged rfl
  rw [writeRecord_rlen, Fin.getElem_fin, Vector.getElem_ofFn]
  exact (toNat_ofNat_le _ _).trans (hr f)

theorem State.Ranges.putSymbols (sy : Candidate) : (putSymbols sy s).Ranges :=
  (h.txtlen_le (n := 65) (by decide)).of_ranged rfl

theorem State.Ranges.writeDiagnostics (ch : Chars) : (writeDiagnostics ch s).Ranges :=
  h.diagnostics (diagnosticsOk_candgen s.tables ch)

/-- After the build the tables are R124's (R126). -/
theorem State.Ranges.tables_ensureTables : (Machine.ensureTables s).tables = builtTables := by
  rw [ensureTables_of_tablesOk s h.tables]

theorem State.Ranges.clearDecodeOutputs : (clearDecodeOutputs s).Ranges := by
  have hrlen := h.rlen_le (v := Vector.replicate 7 0) fun f => by simp
  have hsug := hrlen.suggestion (v := Vector.replicate 65 0) fun i => by simp [suggestionBytes]
  have hlf := hsug.correction (c := ⟨s.cand, .none, 0, 0⟩) ⟨fun _ => rfl, nofun, nofun⟩
  exact (hlf.diagnostics (e := 0) (p := 0) ⟨Nat.zero_le _, .inl (Nat.zero_le _)⟩).of_ranged rfl

theorem State.Ranges.commitDecoded (c : Candidate) {r : Decoded} (hr : r.Sound builtTables) :
    (commitDecoded c r s).Ranges :=
  ((h.cw_le hr.cw_le).of_ranged rfl : ({ s with
    cand := c, ch := r.ch, cw := r.cw, rfcs := r.fcs, fcs := r.fcs, num := r.num } : State).Ranges).writeRecord
      hr.record_fits

theorem State.Ranges.commitRepaired {c : Corrected} {r : Decoded} (hc : c.Placed) (hr : r.Sound builtTables) :
    (commitRepaired c r s).Ranges := by
  have hcommit := (h.commitDecoded c.cand hr).correction hc
  refine (hcommit.suggestion (v := (Machine.commitRepaired c r s).sug) fun i => ?_).of_ranged rfl
  rw [commitRepaired_sug, Fin.getElem_fin, Vector.getElem_ofFn]
  exact symbolByte_mem _

theorem State.Ranges.commitLength {c : Corrected} (hc : c.Placed) (hm : c.misses ≤ 4) : (commitLength c s).Ranges :=
  ((h.correction hc).errcnt_le (e := BitVec.ofNat 4 c.misses)
    (((toNat_ofNat_le _ _).trans hm).trans (by decide))).of_ranged rfl

theorem State.Ranges.missCount (ch : Chars) :
    { s with errcnt := BitVec.ofNat 4 (missCount s.tables ch) }.Ranges :=
  h.errcnt_le ((toNat_ofNat_le _ _).trans (missCount_le _ _))

/-- A host write keeps the ranges: it ignores an illegal length (R67). -/
theorem State.Ranges.storeReg (d : RegData) (r : Reg) : (storeReg d s r).Ranges := by
  cases r with
  | txtlen =>
    rw [storeReg_txtlen]
    split
    · next hd => exact h.txtlen_le hd
    · exact h
  | rlen f =>
    rw [storeReg_rlen]
    split
    · next hd =>
      refine h.rlen_le fun g => ?_
      rw [Fin.getElem_fin, Vector.getElem_set]
      split
      · exact hd
      · exact h.rlen g
    · exact h
  | num i | ch n | txt i | recb f i => exact h.of_ranged rfl
  | status | reason | flags | rem | fcs | rfcs | errcnt | prod | lenfix | seq | cw n | hl k | cand i | sug i | perm i
  | enc k | dec p => exact h

end

/-! Every command, and every step. -/

theorem DecodeEnds.inv {s t : State} (hs : s.Ranges) (htables : s.tables = builtTables) (h : DecodeEnds s t) :
    t.Inv := by
  cases h with
  | fails hf hd => exact (hs.diagnostics hd).raise hf.2
  | reads sy hr hd => exact (hs.diagnostics hd).commitDecoded sy (htables ▸ hr)
  | repairs hc hr hd => exact ((hs.diagnostics hd).commitRepaired hc (htables ▸ hr)).raise (by simp)

/-- Every command ends in a legal state, when the ranges hold before it. -/
theorem Ends.inv {i : Instr} {s t : State} (hs : s.Ranges) (h : Ends s i t) : t.Inv := by
  cases h with
  | fails hf => exact hs.raise hf.2
  | failsBuilt hf => exact hs.ensureTables.raise hf.2
  | tblbuild => exact hs.ensureTables
  | mpclr | mpisz | mpadd | mpsub | mpmuladd | mpdivmod | fcscalc | loadtxt | permfwd | flipad | pack =>
    exact hs.of_ranged rfl
  | perminv => exact hs.putSymbols _
  | cwenc hr => exact (hs.ensureTables.cw_le (cwEncode_cw_le hr)).of_ranged rfl
  | cwdecFails hf => exact (hs.ensureTables.missCount s.ch).raise hf.2
  | cwdec hr =>
    rw [hs.tables_ensureTables] at hr
    exact ((hs.ensureTables.missCount s.ch).cw_le (cwDecode_cw_le hr)).of_ranged rfl
  | unpack num => exact (hs.writeRecord (unpack_fits s.num)).of_ranged rfl
  | @encode num r hr =>
    exact ((hs.ensureTables.cw_le (cwEncode_cw_le hr)).putSymbols (charsToSyms r.ch)).of_ranged rfl
  | decode ht => exact ht.inv hs.ensureTables.clearDecodeOutputs hs.tables_ensureTables
  | lenfix hc hm => exact hs.ensureTables.commitLength hc hm
  | bitfixFails hf => exact (hs.ensureTables.writeDiagnostics s.ch).raise hf.2
  | bitfix ch => exact (hs.ensureTables.writeDiagnostics s.ch).of_ranged rfl

section
variable {s t : State} (hs : s.Inv)
include hs

theorem State.Inv.illegalCommand : (illegalCommand s).Inv :=
  { hs with invalidReason := nofun, reasonOnly := fun _ => .inr rfl }

theorem State.Inv.runWord {w : CmdWord} (h : runWord w s = .next t) : t.Inv := by
  unfold Machine.runWord at h
  split at h
  · exact (exec_ends h).inv hs.ranges
  · cases h
    exact hs.illegalCommand

theorem State.Inv.answer (d : RegData) : (answer d s).Inv :=
  (hs.ranges.of_ranged rfl).inv_of_control hs rfl rfl rfl

theorem State.Inv.hostRead {addr : RegAddr} (h : hostRead addr s = .next t) : t.Inv := by
  unfold Machine.hostRead at h
  split at h
  · cases h
    exact hs.answer 0
  · next r _ =>
    cases h
    split
    · exact (hs.ranges.ensureTables.inv_of_control hs rfl rfl rfl).answer _
    · exact hs.answer _

end

theorem State.Inv.hostWrite {s t : State} (hs : s.Inv) {addr : RegAddr} {d : RegData}
    (h : hostWrite addr d s = .next t) : t.Inv := by
  unfold Machine.hostWrite at h
  split at h
  · cases h
    exact hs
  · next r _ =>
    cases h
    exact (hs.ranges.storeReg d r).inv_of_control hs (storeReg_seq d s r) (storeReg_status d s r)
      (storeReg_reason d s r)

/-- A reset ends in a legal state, whatever the host has presented (R340). -/
theorem inv_resetBlock (s : State) : (resetBlock s).Inv where
  seqIdle := rfl
  txtlen := Nat.zero_le _
  rlen f := by simp [State.reset]
  cw n := by simp [State.reset]
  errcnt := Nat.zero_le _
  prod := .inl (Nat.zero_le _)
  lfp := ⟨fun _ => rfl, nofun, nofun⟩
  sug i := by simp [State.reset, suggestionBytes]
  invalidReason := nofun
  reasonOnly h := absurd rfl h
  tables := ⟨fun _ => rfl, nofun⟩

theorem State.Inv.perform {s t : State} (hs : s.Inv) {i : Input} (h : perform i s = .next t) : t.Inv := by
  cases i with
  | command w => exact hs.runWord h
  | read addr => exact hs.hostRead h
  | write addr d => exact hs.hostWrite h
  | reset =>
    cases h
    exact inv_resetBlock s

/-- Settles O59: a step waits or performs what is presented; a command ends with its own ranges kept and a REASON
exactly with INVALID, and the host's actions and a reset keep the legal states too. -/
theorem everyStepKeepsInv : Obligations.EveryStepKeepsInv := by
  intro s t hs h
  rcases step_cases s t h with ⟨-, rfl⟩ | ⟨i, rest, -, hperform⟩
  · exact hs
  · have htaken := (hs.ranges.of_ranged (t := Claims.taken rest s) rfl).inv_of_control hs rfl rfl rfl
    exact htaken.perform hperform

end Sys2Proof.Machine
end

section
/-! PROOFS. What the commands and the steps leave unchanged: the "Written by" lists (`10_state.md` R20 to R38) and the
tables once built (R39, `40_tables.md` R126). -/

namespace Sys2Proof.Machine

open Sys2Proof.Claims

/-- Settles O57: read off from the states each command can end in. -/
theorem onlyListedCommandsWrite : Obligations.OnlyListedCommandsWrite := by
  intro i s t h
  cases exec_ends h with
  | decode ht => cases ht <;> simp [mnemonicOf]
  | _ => simp [mnemonicOf]

/-- The tables of `t` are built, and they are those of `s`. -/
def KeepsBuilt (s t : State) : Prop := t.tblrdy = true ∧ t.tables = s.tables

section
variable {s : State} (hs : s.tblrdy = true)
include hs

theorem keepsBuilt_ensureTables : KeepsBuilt s (ensureTables s) := by
  simp [KeepsBuilt, hs]

theorem DecodeEnds.keepsBuilt {t : State} (h : DecodeEnds s t) : KeepsBuilt s t := by
  cases h <;> simp [KeepsBuilt, hs]

theorem Ends.keepsBuilt {i : Instr} {t : State} (h : Ends s i t) : KeepsBuilt s t := by
  cases h with
  | decode ht => simpa [KeepsBuilt, hs] using ht.keepsBuilt rfl
  | _ => simp [KeepsBuilt, hs]

end

theorem perform_keepsBuilt {i : Input} {s t : State} (hs : s.tblrdy = true) (hi : i ≠ .reset)
    (h : perform i s = .next t) : KeepsBuilt s t := by
  cases i with
  | command w =>
    rw [perform_command, runWord] at h
    split at h
    · exact (exec_ends h).keepsBuilt hs
    · cases h
      exact ⟨hs, rfl⟩
  | read addr =>
    change hostRead addr s = .next t at h
    unfold hostRead at h
    split at h
    · cases h
      exact ⟨hs, rfl⟩
    · cases h
      split
      · exact keepsBuilt_ensureTables hs
      · exact ⟨hs, rfl⟩
  | write addr d =>
    change hostWrite addr d s = .next t at h
    unfold hostWrite at h
    split at h
    · cases h
      exact ⟨hs, rfl⟩
    · cases h
      exact ⟨(storeReg_tblrdy _ _ _).trans hs, storeReg_tables _ _ _⟩
  | reset => exact absurd rfl hi

/-- Settles O16: every input but a reset keeps built tables. -/
theorem tablesOnceBuiltStay : Obligations.TablesOnceBuiltStay := by
  intro s t hs hreset h
  rcases step_cases s t h with ⟨-, rfl⟩ | ⟨i, rest, hpending, hperform⟩
  · exact ⟨hs, rfl⟩
  · have hi : i ≠ .reset := fun hi => hreset (by rw [hpending, hi, List.head?_cons])
    exact perform_keepsBuilt (s := taken rest s) hs hi hperform

end Sys2Proof.Machine
end

section
/-! PROOFS. R23's relation between CW, FCS and CH after the commands that write them together (`44_codeword.md` R201,
R203). -/

namespace Sys2Proof.Machine

/-- The characters of `cw_encode` are the patterns of its codewords, complemented by its FCS (R201). -/
theorem cwEncode_ch {t : List Assignment} {num : Number} {r : CwEncoded} (h : cwEncode t num = some r) (n : Fin 10) :
    encRead t r.cw[n] ^^^ (if r.fcs.getLsbD n then 8191 else 0) = r.ch[n] := by
  unfold cwEncode at h
  dsimp only at h
  split at h
  · cases h
  · cases h
    simp only [Fin.getElem_fin, Vector.getElem_ofFn]
    exact (polarised_eq _ _).symm

/-- The bits of a word into which the chosen positions of a list are set, one after another. -/
theorem getLsbD_foldl_setBit {α : Type} {w : Nat} (p : α → Bool) (pos : α → Nat) (l : List α) (f : BitVec w) {i : Nat}
    (hi : i < w) :
    (l.foldl (fun f a => if p a then f ||| (1#w <<< pos a) else f) f).getLsbD i
      = (f.getLsbD i || l.any fun a => p a && decide (pos a = i)) := by
  induction l generalizing f with
  | nil => simp
  | cons a l ih =>
    rw [List.foldl_cons, ih, List.any_cons, ← Bool.or_assoc]
    congr 1
    cases p a with
    | false => simp
    | true =>
      have hbit : (1#w <<< pos a).getLsbD i = decide (pos a = i) := by
        rw [BitVec.getLsbD_shiftLeft, BitVec.getLsbD_one]
        grind
      simp [hbit]

/-- Bit n of the received FCS says whether character n was complemented (R33, R203). -/
theorem getLsbD_receivedFcs (t : List Assignment) (ch : Chars) (high : Bool) (n : Fin 10) :
    (receivedFcs t ch high).getLsbD n = fctRead t ch[n] := by
  rw [receivedFcs, getLsbD_foldl_setBit (fun m : Fin 10 => fctRead t ch[m]) fcsBitOfChar _ _ (by omega)]
  have hhigh : (if high then 1#11 <<< fcsOffsetBit else 0).getLsbD n = false := by
    cases high <;> revert n <;> decide
  rw [hhigh, Bool.false_or, Bool.eq_iff_iff, List.any_eq_true]
  simp [fcsBitOfChar, Fin.val_inj]

/-- R23's relation after a successful `cw_decode` (R203). -/
theorem cwDecode_match {ch : Chars} {r : CwDecoded} (h : cwDecode builtTables ch = .ok r) (n : Fin 10) :
    encRead builtTables r.cw[n] ^^^ (if r.fcs.getLsbD n then 8191 else 0) = ch[n] := by
  obtain ⟨hmiss, hcw, -, -, -, hfcs, -⟩ := cwDecode_ok _ _ _ h
  have hsome := (missCount_eq_zero _ _).mp hmiss ch[n] (by simp)
  obtain ⟨k, hk⟩ := Option.isSome_iff_exists.mp hsome
  have hcwn : r.cw[n] = k := by
    rw [hcw, lookupAll, Fin.getElem_fin, Vector.getElem_ofFn, hk, Option.getD_some]
  rw [hcwn, hfcs, getLsbD_receivedFcs]
  exact encRead_of_decRead hk

theorem Decoded.Sound.codewords_match {r : Decoded} (h : r.Sound builtTables) (n : Fin 10) :
    encRead builtTables r.cw[n] ^^^ (if r.fcs.getLsbD n then 8191 else 0) = r.ch[n] := by
  obtain ⟨d, hd, -, hr⟩ := decodeChars_ok _ _ _ h
  have hmatch := cwDecode_match hd n
  rw [hr]
  exact hmatch

/-- A DECODE that succeeds commits a decode's codewords, FCS and characters together (R254). -/
theorem DecodeEnds.codewordsMatch {s t : State} (htables : s.tables = builtTables) (h : DecodeEnds s t)
    (ht : t.status.Success) : t.CodewordsMatch := by
  cases h with
  | fails hf => exact absurd ht hf.1
  | reads sy hr =>
    rw [htables] at hr
    intro n
    simp only [complete_tables, complete_cw, complete_fcs, complete_ch, commitDecoded_tables, commitDecoded_cw,
      commitDecoded_fcs, commitDecoded_ch, htables]
    exact hr.codewords_match n
  | repairs hc hr =>
    rw [htables] at hr
    intro n
    simp only [raise_tables, raise_cw, raise_fcs, raise_ch, commitRepaired_tables, commitRepaired_cw,
      commitRepaired_fcs, commitRepaired_ch, htables]
    exact hr.codewords_match n

/-- Settles O41: after ENCODE and CWENC by `cw_encode`, after CWDEC and DECODE by the inverse tables. -/
theorem codewordsMatchCharacters : Obligations.CodewordsMatchCharacters := by
  intro i hi s t hs h ht
  have htables : (ensureTables s).tables = builtTables := by rw [ensureTables_of_tablesOk s hs]
  simp only [List.mem_cons, List.not_mem_nil, or_false] at hi
  cases exec_ends h with
  | fails hf | failsBuilt hf | cwdecFails hf | bitfixFails hf => exact absurd ht hf.1
  | cwenc hr => exact cwEncode_ch hr
  | encode hr => exact cwEncode_ch hr
  | cwdec hr =>
    rw [htables] at hr
    intro n
    simp only [complete_tables, htables]
    exact cwDecode_match hr n
  | decode hd => exact hd.codewordsMatch ((clearDecodeOutputs_tables _).trans htables) ht
  | tblbuild | mpclr | mpisz | mpadd | mpsub | mpmuladd | mpdivmod | fcscalc | loadtxt | permfwd | perminv | flipad
  | pack | unpack | lenfix | bitfix => simp at hi

end Sys2Proof.Machine
end

section
/-! PROOFS. The transitions of the sequencer (`47_repair.md` R270), and SEQ after every command (`10_state.md` R27). -/

namespace Sys2Proof.Machine

open Sys2Proof.Claims

/-- Going on from a phase by entering another: the transition, SEQ and the command have to be right for the job that
is entered. -/
theorem keeps_of_enter {jobs : Job → Bool} {transition : Phase → Phase → Bool} {j j' : Job} {u : State}
    {p : Job × State} (h : p = enter j' u)
    (ht : transition (jobPhase j) (jobPhase j') = true) (hj : jobs j' = true) :
    transition (jobPhase j) (jobPhase p.1) = true ∧ p.2.seq = jobPhase p.1 ∧ jobs p.1 = true := by
  rw [h]
  exact ⟨ht, setPhase_seq _ u, hj⟩

theorem decode_keepsTo : KeepsTo decodeJob decodeTransition := by
  intro j s hj hidle
  cases j with
  | decodeNorm =>
    rcases decodeNorm_cases s with ⟨st, r, -, h⟩ | ⟨sy, h⟩ | ⟨sy, h⟩ <;>
      exact keeps_of_enter (congrArg (enter · s) h) rfl rfl
  | decodeStrict sy =>
    rcases decodeStrict_cases sy s with ⟨r, -, h⟩ | ⟨c, -, h⟩ <;>
      exact keeps_of_enter (congrArg (enter · s) h) rfl rfl
  | decodeLenscan sy =>
    rcases decodeLenscan_cases sy s with ⟨st, r, -, h⟩ | ⟨c, -, h⟩ <;>
      exact keeps_of_enter (congrArg (enter · s) h) rfl rfl
  | decodeCandgen c =>
    rcases decodeCandgen_cases c s with h | h <;>
      exact keeps_of_enter (congrArg (enter · (writeDiagnostics (symsToChars c.cand) s)) h) rfl rfl
  | decodeSearch c =>
    rcases decodeSearch_cases c s with h | ⟨r, -, h⟩ | ⟨st, r, -, h⟩ <;>
      exact keeps_of_enter (congrArg (enter · s) h) rfl rfl
  | decodeFlip c infeasible =>
    obtain ⟨st, r, -, h⟩ := decodeFlip_fails c infeasible s
    exact keeps_of_enter (congrArg (enter · s) h) rfl rfl
  | decodeCommit sy r | repairCommit c r | fail st r => exact ⟨rfl, rfl, rfl⟩
  | idle => exact absurd rfl hidle
  | lenfixNorm | lenfixScan sy | lenfixCommit c | bitfixCandgen | bitfixSearch | bitfixCommit ch => cases hj

theorem lenfix_keepsTo : KeepsTo lenfixJob lenfixTransition := by
  intro j s hj hidle
  cases j with
  | lenfixNorm =>
    rcases lenfixNorm_cases s with ⟨st, r, -, h⟩ | ⟨sy, h⟩ <;>
      exact keeps_of_enter (congrArg (enter · s) h) rfl rfl
  | lenfixScan sy =>
    rcases lenfixScan_cases sy s with ⟨st, r, -, h⟩ | ⟨c, -, h⟩ <;>
      exact keeps_of_enter (congrArg (enter · s) h) rfl rfl
  | lenfixCommit c | fail st r => exact ⟨rfl, rfl, rfl⟩
  | idle => exact absurd rfl hidle
  | decodeNorm | decodeStrict sy | decodeLenscan sy | decodeCandgen c | decodeSearch c | decodeFlip c infeasible
  | decodeCommit sy r | repairCommit c r | bitfixCandgen | bitfixSearch | bitfixCommit ch => cases hj

theorem bitfix_keepsTo : KeepsTo bitfixJob bitfixTransition := by
  intro j s hj hidle
  cases j with
  | bitfixCandgen =>
    rcases bitfixCandgen_cases s with h | ⟨st, r, -, h⟩ <;>
      exact keeps_of_enter (congrArg (enter · (writeDiagnostics s.ch s)) h) rfl rfl
  | bitfixSearch =>
    rcases bitfixSearch_cases s with ⟨st, r, -, h⟩ | ⟨ch, h⟩ <;>
      exact keeps_of_enter (congrArg (enter · s) h) rfl rfl
  | bitfixCommit ch | fail st r => exact ⟨rfl, rfl, rfl⟩
  | idle => exact absurd rfl hidle
  | decodeNorm | decodeStrict sy | decodeLenscan sy | decodeCandgen c | decodeSearch c | decodeFlip c infeasible
  | decodeCommit sy r | repairCommit c r | lenfixNorm | lenfixScan sy | lenfixCommit c => cases hj

/-- Every command ends with SEQ back at IDLE (R27). -/
theorem Ends.seq {i : Instr} {s t : State} (h : Ends s i t) : t.seq = .idle := by
  cases h with
  | decode ht => cases ht <;> rfl
  | _ => rfl

/-- Settles O56: each phase goes on only as its own cases allow, and every command ends through `raise`. -/
theorem sequencerFollowsTheTable : Obligations.SequencerFollowsTheTable :=
  ⟨fun _ => rfl, fun _ => rfl, fun _ => rfl, decode_keepsTo, lenfix_keepsTo, bitfix_keepsTo,
    fun _ _ _ h => (exec_ends h).seq⟩

end Sys2Proof.Machine
end

section
/-! PROOFS. How the registers read at the host port (`20_memory.md` R63, R64, R66): zero-extension, fields side by
side, and the bits of HL. -/

namespace Sys2Proof.Machine

/-- Two fields side by side: the upper one counts by the width of the lower. -/
theorem toNat_append_eq_add {v w : Nat} (x : BitVec v) (y : BitVec w) :
    (x ++ y).toNat = y.toNat + 2 ^ w * x.toNat := by
  rw [BitVec.toNat_append, ← Nat.shiftLeft_add_eq_or_of_lt y.isLt, Nat.shiftLeft_eq]
  ring

theorem toNat_ofNat_fin {n w : Nat} (hn : n ≤ 2 ^ w) (i : Fin n) : (BitVec.ofNat w i).toNat = i.val := by
  rw [BitVec.toNat_ofNat, Nat.mod_eq_of_lt (i.isLt.trans_le hn)]

theorem toNat_flagsWord (s : State) : (flagsWord s).toNat = s.z.toNat + 2 * s.ovf.toNat + 4 * s.tblrdy.toNat := by
  simp only [flagsWord, toNat_append_eq_add, BitVec.toNat_ofBool]
  ring

theorem toNat_lenfixWord (s : State) : (lenfixWord s).toNat = (lengthFixCode s.lfk).toNat + 256 * s.lfp.toNat := by
  simp only [lenfixWord, toNat_append_eq_add, BitVec.toNat_zero]
  ring

theorem toNat_permWord (p : PermRow) :
    (permWord p).toNat = p.ascChar.val + 16 * p.ascBit.val + 256 * p.descChar.val + 4096 * p.descBit.val := by
  simp only [permWord, toNat_append_eq_add]
  rw [toNat_ofNat_fin (by decide), toNat_ofNat_fin (by decide), toNat_ofNat_fin (by decide),
    toNat_ofNat_fin (by decide)]
  ring

theorem decWord_of_none {t : List Assignment} {p : Char13} (h : decRead t p = none) : decWord t p = 0 := by
  rw [decWord, h]

theorem toNat_decWord_of_some {t : List Assignment} {p : Char13} {k : Index} (h : decRead t p = some k) :
    (decWord t p).toNat = k.toNat + 2048 * (fctRead t p).toNat + 32768 := by
  rw [decWord, h]
  simp only [toNat_append_eq_add, BitVec.toNat_ofBool, BitVec.toNat_zero, show (1#1).toNat = 1 from rfl]
  ring

/-- Bit j of word k of HL is HL[32k + j], and 0 past HL[64] (R64). -/
theorem getLsbD_hlWord (s : State) (k : Fin 3) (j : Fin 32) :
    (hlWord s k).getLsbD j = if h : 32 * k.val + j.val < 65 then s.hl[32 * k.val + j.val] else false := by
  have hbit : (hlWord s k).getLsbD j = s.hl.toList.getD (32 * k.val + j.val) false := by
    have hfold := getLsbD_foldl_setBit (fun j => s.hl.toList.getD (32 * k.val + j) false) (fun j => j) (List.range 32)
      0 j.isLt
    rw [hlWord, hfold, Bool.eq_iff_iff]
    simp
  rw [hbit, List.getD_eq_getElem?_getD]
  split
  · next h => simp [h]
  · next h => simp [Nat.le_of_not_lt h]

/-- Settles O13: the codes by their lists, the words of several fields by the lemmas above, every other register by
zero-extension. -/
theorem registerWordsHaveTheirLayout : Obligations.RegisterWordsHaveTheirLayout := by
  have read {w : Nat} (hw : w ≤ 32) (x : BitVec w) : (x.setWidth 32).toNat = x.toNat := BitVec.toNat_setWidth_of_le hw
  refine ⟨rfl, rfl, rfl, rfl, fun s => ⟨?flags, ?lenfix, getLsbD_hlWord s, ?perm, ?dec, ?fields⟩⟩
  case flags => exact (read (by decide) _).trans (toNat_flagsWord s)
  case lenfix =>
    refine (read (by decide) _).trans ((toNat_lenfixWord s).trans (congrArg (· + 256 * s.lfp.toNat) ?_))
    cases s.lfk <;> rfl
  case perm => exact fun i => (read (by decide) _).trans (toNat_permWord _)
  case dec =>
    intro p
    refine (read (by decide) _).trans ?_
    split
    · next h => rw [decWord_of_none h]; rfl
    · next k h => exact toNat_decWord_of_some h
  case fields =>
    exact ⟨read (by decide) _, read (by decide) _, read (by decide) _, fun _ => read (by decide) _,
      read (by decide) _, read (by decide) _, read (by decide) _, read (by decide) _, read (by decide) _,
      read (by decide) _, fun _ => read (by decide) _, fun _ => read (by decide) _, fun _ => read (by decide) _,
      fun _ => read (by decide) _, fun _ => read (by decide) _, fun _ => read (by decide) _,
      fun _ _ => read (by decide) _, fun _ => read (by decide) _⟩

end Sys2Proof.Machine
end

section
/-! PROOFS. The address map of the host port (`20_memory.md` R63, R64): a register file is found from its base, and its
decoder gives back the address. -/

namespace Sys2Proof.Machine

/-- Element `i` of a register file stands `i` above the file's base. -/
theorem element_base_add (base : Nat) {n : Nat} (i : Fin n) : element n base (base + i) = some i := by
  simp [element]

theorem element_eq_some {n base a : Nat} {i : Fin n} (h : element n base a = some i) : base + i = a := by
  unfold element at h
  split at h
  · next ha =>
    cases h
    exact Nat.add_sub_cancel' ha.1
  · cases h

theorem recordByteAt_base_add (f : Fin 7) (i : Fin 32) : recordByteAt (0x0300 + 32 * f + i) = some (.recb f i) := by
  have hf : (0x0300 + 32 * f.val + i.val - 0x0300) / 32 = 0 + f.val := by omega
  have hi : (0x0300 + 32 * f.val + i.val - 0x0300) % 32 = 0 + i.val := by omega
  rw [recordByteAt, hf, hi, element_base_add, element_base_add]
  exact if_pos (by omega)

theorem regAddress_lt (r : Reg) : regAddress r < 2 ^ 14 := by
  cases r <;> simp only [regAddress] <;> omega

/-- The decoder of addresses finds every register at its address: it takes the register's own branch. -/
theorem regAt_regAddress (r : Reg) : regAt (BitVec.ofNat 14 (regAddress r)) = some r := by
  cases r with
  | status | reason | flags | rem | fcs | rfcs | errcnt | prod | lenfix | seq | txtlen => rfl
  | num i | ch i | cw i | rlen i | hl i | txt i | cand i | sug i | perm i | enc i | dec i =>
    simp (disch := omega) only [regAddress, regAt, BitVec.toNat_ofNat, Nat.mod_eq_of_lt, if_pos, if_neg,
      element_base_add, Option.map_some]
  | recb f i =>
    simp (disch := omega) only [regAddress, regAt, BitVec.toNat_ofNat, Nat.mod_eq_of_lt, if_pos, if_neg,
      recordByteAt_base_add]

/-- Whatever register is found, `a` is its address. -/
def FoundAt (a : Nat) (found : Option Reg) : Prop := ∀ r, found = some r → regAddress r = a

theorem foundAt_scalarAt (a : Nat) : FoundAt a (scalarAt a) := by
  intro r h
  unfold scalarAt at h
  split at h <;> cases h <;> rfl

theorem foundAt_file {n base a : Nat} {f : Fin n → Reg} (hf : ∀ i : Fin n, regAddress (f i) = base + i) :
    FoundAt a ((element n base a).map f) := by
  intro r h
  obtain ⟨i, hi, rfl⟩ := Option.map_eq_some_iff.mp h
  rw [hf, element_eq_some hi]

theorem foundAt_recordByteAt (a : Nat) : FoundAt a (recordByteAt a) := by
  intro r h
  unfold recordByteAt at h
  split at h
  · next f i hf hi =>
    split at h
    · cases h
      have := element_eq_some hf
      have := element_eq_some hi
      simp only [regAddress]
      omega
    · cases h
  · cases h

theorem foundAt_ite {a : Nat} {c : Prop} [Decidable c] {x y : Option Reg} (hx : FoundAt a x) (hy : FoundAt a y) :
    FoundAt a (if c then x else y) := by
  split
  · exact hx
  · exact hy

/-- The branches of the decoder of addresses, in its order. -/
theorem foundAt_regAt (addr : RegAddr) : FoundAt addr.toNat (regAt addr) := by
  refine foundAt_ite (foundAt_scalarAt _) ?_
  iterate 8 refine foundAt_ite (foundAt_file fun _ => rfl) ?_
  refine foundAt_ite (foundAt_recordByteAt _) ?_
  iterate 2 refine foundAt_ite (foundAt_file fun _ => rfl) ?_
  exact foundAt_file fun _ => rfl

/-- Settles O10: file by file, from the base of each. -/
theorem registerMapIsOneToOne : Obligations.RegisterMapIsOneToOne :=
  ⟨fun r => ⟨regAddress_lt r, regAt_regAddress r⟩, foundAt_regAt⟩

end Sys2Proof.Machine
end

section
/-! PROOFS. A register read and a register write at the host port (`20_memory.md` R66, R67). -/

namespace Sys2Proof.Machine

open Sys2Proof.Claims

/-! Reads. -/

/-- No register shows the host's side of the ports. -/
theorem regValue_host (h : HostSide) (s : State) (r : Reg) : regValue { s with host := h } r = regValue s r := by
  cases r <;> rfl

theorem hostRead_of_unmapped {a : RegAddr} (h : regAt a = none) (s : State) : hostRead a s = .next (answer 0 s) := by
  rw [hostRead, h]

theorem hostRead_of_register {a : RegAddr} {r : Reg} (h : regAt a = some r) (hr : readsTables r = false) (s : State) :
    hostRead a s = .next (answer (regValue s r) s) := by
  simp [hostRead, h, hr]

theorem hostRead_of_table {a : RegAddr} {r : Reg} (h : regAt a = some r) (hr : readsTables r = true) (s : State) :
    hostRead a s = .next (answer (regValue (ensureTables s) r) (ensureTables s)) := by
  simp [hostRead, h, hr]

/-- Settles O11: the three cases of a read, on the state with the read taken from the port. -/
theorem hostReadReturnsTheRegister : Obligations.HostReadReturnsTheRegister := by
  intro s a rest hp htables
  have hstep : step s = hostRead a (taken rest s) := step_of_cons hp
  have hbuild : ensureTables (taken rest s) = built (taken rest s) := ensureTables_of_tablesOk _ htables
  refine ⟨fun h => ?unmapped, fun r h hr => ?register, fun r h hr => ?table⟩
  case unmapped =>
    rw [hstep, hostRead_of_unmapped h]
    rfl
  case register =>
    rw [hstep, hostRead_of_register h hr, taken, regValue_host]
    rfl
  case table =>
    have hvalue : regValue (built (taken rest s)) r = regValue (built s) r := regValue_host _ (built s) r
    rw [hstep, hostRead_of_table h hr, hbuild, hvalue]
    rfl

/-! Writes: what a write of each writable register leaves of the others. -/

theorem hostWrite_of_unmapped {a : RegAddr} (h : regAt a = none) (d : RegData) (s : State) :
    hostWrite a d s = .next s := by
  rw [hostWrite, h]

theorem hostWrite_of_register {a : RegAddr} {r : Reg} (h : regAt a = some r) (d : RegData) (s : State) :
    hostWrite a d s = .next (storeReg d s r) := by
  rw [hostWrite, h]

@[simp] theorem storeReg_host (d : RegData) (s : State) (r : Reg) : (storeReg d s r).host = s.host := by
  rw [storeReg_frame]

/-- The low `k` bits of a datum, as the register reads them back (R63, R66). -/
theorem setWidth_setWidth_eq (k : Nat) (d : RegData) :
    (d.setWidth k).setWidth 32 = BitVec.ofNat 32 (d.toNat % 2 ^ k) := by
  apply BitVec.eq_of_toNat_eq
  simp

theorem regValue_storeReg_self (d : RegData) (s : State) (r : Reg) :
    regValue (storeReg d s r) r = storedValue d s r := by
  cases r with
  | txtlen =>
    rw [storeReg_txtlen, storedValue, BitVec.toNat_setWidth, Config.txtCap]
    split
    · exact setWidth_setWidth_eq 8 d
    · rfl
  | rlen f =>
    rw [storeReg_rlen, storedValue, BitVec.toNat_setWidth, Config.fieldCap]
    split
    · simp [regValue, setWidth_setWidth_eq]
    · rfl
  | num i | ch n | txt i | recb f i => simp [storeReg, regValue, storedValue, setWidth_setWidth_eq]
  | status | reason | flags | rem | fcs | rfcs | errcnt | prod | lenfix | seq | cw n | hl k | cand i | sug i | perm i
  | enc k | dec p => rfl

theorem getElem_set_of_ne {α : Type} {n : Nat} (v : Vector α n) {i j : Fin n} (h : j ≠ i) (x : α) :
    (v.set i x)[j] = v[j] := by
  simp [Fin.val_ne_of_ne h.symm]

section
variable {s : State} {r : Reg}

theorem regValue_set_num {i : Fin 10} (x : Word) (h : r ≠ .num i) :
    regValue { s with num := s.num.set i x } r = regValue s r := by
  cases r with
  | num j => exact congrArg (BitVec.setWidth 32) (getElem_set_of_ne _ (mt (congrArg Reg.num) h) x)
  | _ => rfl

theorem regValue_set_ch {n : Fin 10} (x : Char13) (h : r ≠ .ch n) :
    regValue { s with ch := s.ch.set n x } r = regValue s r := by
  cases r with
  | ch m => exact congrArg (BitVec.setWidth 32) (getElem_set_of_ne _ (mt (congrArg Reg.ch) h) x)
  | _ => rfl

theorem regValue_set_rlen {f : Fin 7} (x : BitVec 6) (h : r ≠ .rlen f) :
    regValue { s with rlen := s.rlen.set f x } r = regValue s r := by
  cases r with
  | rlen g => exact congrArg (BitVec.setWidth 32) (getElem_set_of_ne _ (mt (congrArg Reg.rlen) h) x)
  | _ => rfl

theorem regValue_set_txt {i : Fin 128} (x : Byte) (h : r ≠ .txt i) :
    regValue { s with txt := s.txt.set i x } r = regValue s r := by
  cases r with
  | txt j => exact congrArg (BitVec.setWidth 32) (getElem_set_of_ne _ (mt (congrArg Reg.txt) h) x)
  | _ => rfl

theorem regValue_set_recb {f : Fin 7} {i : Fin 32} (x : Byte) (h : r ≠ .recb f i) :
    regValue { s with recb := s.recb.set f (s.recb[f].set i x) } r = regValue s r := by
  cases r with
  | recb g j =>
    refine congrArg (BitVec.setWidth 32) ?_
    by_cases hgf : g = f
    · subst hgf
      have hbuffer : (s.recb.set g (s.recb[g].set i x))[g] = s.recb[g].set i x := Vector.getElem_set_self _
      rw [hbuffer]
      exact getElem_set_of_ne _ (mt (congrArg (Reg.recb g)) h) x
    · exact congrArg (·[j]) (getElem_set_of_ne s.recb hgf _)
  | _ => rfl

theorem regValue_set_txtlen (x : BitVec 8) (h : r ≠ .txtlen) : regValue { s with txtlen := x } r = regValue s r := by
  cases r with
  | txtlen => exact absurd rfl h
  | _ => rfl

theorem regValue_storeReg_of_ne (d : RegData) {r' : Reg} (h : r ≠ r') :
    regValue (storeReg d s r') r = regValue s r := by
  cases r' with
  | txtlen =>
    rw [storeReg_txtlen]
    split
    · exact regValue_set_txtlen _ h
    · rfl
  | rlen f =>
    rw [storeReg_rlen]
    split
    · exact regValue_set_rlen _ h
    · rfl
  | num i => exact regValue_set_num _ h
  | ch n => exact regValue_set_ch _ h
  | txt i => exact regValue_set_txt _ h
  | recb f i => exact regValue_set_recb _ h
  | status | reason | flags | rem | fcs | rfcs | errcnt | prod | lenfix | seq | cw n | hl k | cand i | sug i | perm i
  | enc k | dec p => rfl

end

/-- Settles O12: the register written, the others, and nothing at an unmapped address. -/
theorem hostWriteStoresTheLowBits : Obligations.HostWriteStoresTheLowBits := by
  intro s a d rest hp
  have hstep : step s = hostWrite a d (taken rest s) := step_of_cons hp
  have hread (r : Reg) : regValue (taken rest s) r = regValue s r := regValue_host _ s r
  have hstored (r : Reg) : storedValue d (taken rest s) r = storedValue d s r := by
    cases r <;> rfl
  refine ⟨fun h => hstep.trans (hostWrite_of_unmapped h d _), fun r h => ?_⟩
  refine ⟨_, hstep.trans (hostWrite_of_register h d _), storeReg_host _ _ _, storeReg_tables _ _ _, ?_,
    fun r' hr => ?_⟩
  · rw [regValue_storeReg_self, hstored]
  · rw [regValue_storeReg_of_ne d hr, hread]

end Sys2Proof.Machine
end

section
/-! PROOFS. Legal words (`30_encoding.md` R93): a word the decoder takes passes R93's four checks. -/

namespace Sys2Proof

/-! The checks, over the decoder's fields. -/

theorem wordOp_eq (w : CmdWord) : wordOp w = (opField w).toNat := by
  have := w.isLt
  simp only [wordOp, opField, BitVec.extractLsb'_toNat, Nat.shiftRight_eq_div_pow]
  omega

theorem wordRsv_eq (w : CmdWord) : wordRsv w = (rsvField w).toNat := by
  simp only [wordRsv, rsvField, BitVec.extractLsb'_toNat, Nat.shiftRight_eq_div_pow]

theorem wordA_eq (w : CmdWord) : wordA w = (aField w).toNat := by
  simp only [wordA, aField, BitVec.extractLsb'_toNat, Nat.shiftRight_eq_div_pow]

theorem wordB_eq (w : CmdWord) : wordB w = (bField w).toNat := by
  simp only [wordB, bField, BitVec.extractLsb'_toNat, Nat.shiftRight_zero]

theorem checkRsv_ok {w : CmdWord} {r : Except DecodeError Instr} {i : Instr} (h : checkRsv w r = .ok i) :
    rsvField w = 0 ∧ r = .ok i := by
  unfold checkRsv at h
  split at h
  · next hz => exact ⟨hz, h⟩
  · cases h

theorem checkA_ok {w : CmdWord} {r : Except DecodeError Instr} {i : Instr} (h : checkA w r = .ok i) :
    aField w = 0 ∧ r = .ok i := by
  unfold checkA at h
  split at h
  · next hz => exact ⟨hz, h⟩
  · cases h

theorem checkB_ok {w : CmdWord} {r : Except DecodeError Instr} {i : Instr} (h : checkB w r = .ok i) :
    bField w = 0 ∧ r = .ok i := by
  unfold checkB at h
  split at h
  · next hz => exact ⟨hz, h⟩
  · cases h

/-- R93's checks on a word with the reserved field clear: the operands its opcode does not use are 0. -/
theorem legalWord_of_fields {w : CmdWord} {n : Nat} (hn : (opField w).toNat = n) (hop : n ∈ assignedOpcodes)
    (hrsv : rsvField w = 0) (ha : aField w = 0 ∨ n ∈ [0x14, 0x15]) (hb : bField w = 0 ∨ n ∈ [0x12, 0x13, 0x14]) :
    legalWord w = true := by
  have ha' : (aField w).toNat = 0 ∨ n ∈ [0x14, 0x15] := ha.imp_left (congrArg BitVec.toNat)
  have hb' : (bField w).toNat = 0 ∨ n ∈ [0x12, 0x13, 0x14] := hb.imp_left (congrArg BitVec.toNat)
  simp only [legalWord, opcodeAssigned, reservedClear, operandAAllowed, operandBAllowed, wordOp_eq, wordRsv_eq,
    wordA_eq, wordB_eq, hn, hrsv, Bool.and_eq_true, Bool.or_eq_true, beq_iff_eq, List.contains_iff_mem]
  exact ⟨⟨⟨hop, rfl⟩, ha'⟩, hb'⟩

section
variable {w : CmdWord} {i : Instr} {n : Nat} (hn : (opField w).toNat = n) (hop : n ∈ assignedOpcodes)
include hn hop

theorem legalWord_of_plain {j : Instr} (h : plain w j = .ok i) : legalWord w = true := by
  obtain ⟨hrsv, h⟩ := checkRsv_ok h
  obtain ⟨ha, h⟩ := checkA_ok h
  exact legalWord_of_fields hn hop hrsv (.inl ha) (.inl (checkB_ok h).1)

theorem legalWord_of_usesB {j : BitVec 32 → Instr} (hb : n ∈ [0x12, 0x13, 0x14]) (h : usesB w j = .ok i) :
    legalWord w = true := by
  obtain ⟨hrsv, h⟩ := checkRsv_ok h
  exact legalWord_of_fields hn hop hrsv (.inl (checkA_ok h).1) (.inr hb)

theorem legalWord_of_usesA {j : BitVec 20 → Instr} (ha : n ∈ [0x14, 0x15]) (h : usesA w j = .ok i) :
    legalWord w = true := by
  obtain ⟨hrsv, h⟩ := checkRsv_ok h
  exact legalWord_of_fields hn hop hrsv (.inr ha) (.inl (checkB_ok h).1)

theorem legalWord_of_usesAB {j : BitVec 20 → BitVec 32 → Instr} (ha : n ∈ [0x14, 0x15])
    (hb : n ∈ [0x12, 0x13, 0x14]) (h : usesAB w j = .ok i) : legalWord w = true :=
  legalWord_of_fields hn hop (checkRsv_ok h).1 (.inr ha) (.inr hb)

end

/-- A word that decodes is legal: its row of R94 makes each of R93's checks that its operands leave open. -/
theorem legalWord_of_decodeWord {w : CmdWord} {i : Instr} (h : decodeWord w = .ok i) : legalWord w = true := by
  unfold decodeWord at h
  split at h
  iterate 3
    next hn => exact legalWord_of_plain hn (by decide) h
  iterate 2
    next hn => exact legalWord_of_usesB hn (by decide) (by decide) h
  · next hn => exact legalWord_of_usesAB hn (by decide) (by decide) (by decide) h
  · next hn => exact legalWord_of_usesA hn (by decide) (by decide) h
  iterate 13
    next hn => exact legalWord_of_plain hn (by decide) h
  · cases h

end Sys2Proof
end

section
/-! PROOFS. Who performs the build (`40_tables.md` R126, `20_memory.md` R66, R67): the table users start from the built
tables, and nothing else writes them. -/

namespace Sys2Proof.Machine

open Sys2Proof.Claims

theorem ensureTables_ensureTables (s : State) : ensureTables (ensureTables s) = ensureTables s := by
  simp [ensureTables]

/-- The tables of `t` are built, by `s` or on the way from it. -/
def Builds (s t : State) : Prop := t.tblrdy = true ∧ t.tables = if s.tblrdy then s.tables else builtTables

/-- `t` is as far from the build as `s`. -/
def LeavesTables (s t : State) : Prop := t.tblrdy = s.tblrdy ∧ t.tables = s.tables

/-- A command that performs the build cannot tell whether the build was done before it (R126). -/
theorem exec_ensureTables {i : Instr} (hi : buildsTables i = true) (s : State) :
    exec i (ensureTables s) = exec i s := by
  cases i with
  | tblbuild | cwenc | cwdec | encode | decode | lenfix | bitfix =>
    simp only [exec, execTblbuild, execCwenc, execCwdec, execEncode, execDecode, execLenfix, execBitfix,
      ensureTables_ensureTables]
  | mpclr | mpisz | mpadd b | mpsub b | mpmuladd a b | mpdivmod a | fcscalc | loadtxt | permfwd | perminv | flipad
  | pack | unpack => cases hi

/-- So it keeps the built tables, whatever its outcome. -/
theorem exec_builds {i : Instr} (hi : buildsTables i = true) {s t : State} (h : exec i s = .next t) : Builds s t := by
  rw [← exec_ensureTables hi] at h
  obtain ⟨hready, htables⟩ := (exec_ends h).keepsBuilt (ensureTables_tblrdy s)
  exact ⟨hready, htables.trans (ensureTables_tables s)⟩

theorem exec_leavesTables {i : Instr} (hi : buildsTables i = false) {s t : State} (h : exec i s = .next t) :
    LeavesTables s t := by
  cases i with
  | mpclr | mpisz | mpadd b | mpsub b | mpmuladd a b | fcscalc | permfwd | perminv | flipad =>
    cases h
    simp [LeavesTables]
  | mpdivmod a =>
    change execMpdivmod a s = .next t at h
    unfold execMpdivmod at h
    split at h <;> cases h <;> simp [LeavesTables]
  | loadtxt =>
    change execLoadtxt s = .next t at h
    unfold execLoadtxt at h
    split at h
    · cases h
      simp [LeavesTables]
    · split at h <;> cases h <;> simp [LeavesTables]
  | pack =>
    change execPack s = .next t at h
    unfold execPack at h
    split at h <;> cases h <;> simp [LeavesTables]
  | unpack =>
    change execUnpack s = .next t at h
    unfold execUnpack at h
    dsimp only at h
    split at h <;> cases h <;> simp [LeavesTables]
  | tblbuild | cwenc | cwdec | encode | decode | lenfix | bitfix => cases hi

theorem runWord_of_illegal {w : CmdWord} (hw : legalWord w = false) (s : State) :
    runWord w s = .next (illegalCommand s) := by
  unfold runWord
  split
  · next i hi => exact absurd (legalWord_of_decodeWord hi) (by simp [hw])
  · rfl

/-- Settles O15: the commands by the two lemmas above, the host's actions by their cases. -/
theorem tableUsersBuildTheTables : Obligations.TableUsersBuildTheTables := by
  refine ⟨?builders, ?others, ?tableRead, ?illegal, ?otherRead, ?write, fun _ => rfl,
    fun _ => ⟨_, rfl, rfl, rfl⟩⟩
  case builders =>
    intro i s hi
    obtain ⟨t, ht⟩ := exec_next i s
    exact ⟨t, ht, exec_builds hi ht⟩
  case others =>
    intro i s hi
    obtain ⟨t, ht⟩ := exec_next i s
    exact ⟨t, ht, exec_leavesTables hi ht⟩
  case tableRead =>
    intro a r s h hr
    exact ⟨_, hostRead_of_table h hr s, rfl, rfl⟩
  case illegal =>
    intro w s hw
    exact ⟨_, runWord_of_illegal hw s, rfl, rfl⟩
  case otherRead =>
    intro a s hregs
    cases h : regAt a with
    | none => exact ⟨_, hostRead_of_unmapped h s, rfl, rfl⟩
    | some r => exact ⟨_, hostRead_of_register h (hregs r h) s, rfl, rfl⟩
  case write =>
    intro a d s
    cases h : regAt a with
    | none => exact ⟨_, hostWrite_of_unmapped h d s, rfl, rfl⟩
    | some r => exact ⟨_, hostWrite_of_register h d s, storeReg_tblrdy d s r, storeReg_tables d s r⟩

end Sys2Proof.Machine
end

section
/-! PROOFS. Which patterns the built tables populate (`20_memory.md` R62, `40_tables.md` R121 to R124, R127): those of
weight 5 or 2, and their complements. -/

namespace Sys2Proof.Machine

/-! Weights. -/

theorem popcount13_eq_onesBelow (p : Char13) : popcount13 p = onesBelow 13 p.toNat := rfl

/-- A reversal keeps the weight (R121). -/
theorem popcount13_rev13 (p : Char13) : popcount13 (rev13 p) = popcount13 p := by
  have hreverse : (List.range 13).map (12 - ·) = (List.range 13).reverse := by decide
  calc popcount13 (rev13 p) = (List.range 13).countP fun i => p.getLsbD (12 - i) :=
        List.countP_congr fun i hi => by rw [getLsbD_rev13 p i (List.mem_range.mp hi)]
    _ = ((List.range 13).map (12 - ·)).countP fun i => p.getLsbD i := List.countP_map.symm
    _ = popcount13 p := by rw [hreverse, List.countP_reverse, popcount13]

/-- A pattern and its complement share the 13 bits between them (R123). -/
theorem popcount13_complement13 (p : Char13) : popcount13 (complement13 p) + popcount13 p = 13 := by
  have hbits : popcount13 (complement13 p) = (List.range 13).countP fun i => !p.getLsbD i := by
    refine List.countP_congr fun i hi => ?_
    have hi : i < 13 := List.mem_range.mp hi
    have hones : (8191#13).getLsbD i = true := by
      revert i
      decide
    simp [complement13, hones]
  have hlength := List.length_eq_countP_add_countP (fun i => p.getLsbD i) (l := List.range 13)
  simp only [List.length_range] at hlength
  rw [hbits, popcount13, Nat.add_comm]
  simpa using hlength.symm

/-- Half of the values below a power of two have the next bit, so the values of one weight are counted as Pascal's
triangle counts them. -/
theorem countP_onesBelow (bits w : Nat) :
    ((List.range (2 ^ bits)).countP fun v => onesBelow bits v = w) = bits.choose w := by
  induction bits generalizing w with
  | zero => cases w <;> simp [onesBelow]
  | succ bits ih =>
    have hlow : ((List.range (2 ^ bits)).countP fun v => onesBelow (bits + 1) v = w) = bits.choose w := by
      rw [← ih]
      refine List.countP_congr fun v hv => ?_
      rw [onesBelow_succ, Nat.testBit_lt_two_pow (List.mem_range.mp hv)]
      rfl
    have hhigh : ((List.range (2 ^ bits)).countP fun v => onesBelow (bits + 1) (2 ^ bits + v) = w)
        = (List.range (2 ^ bits)).countP fun v => onesBelow bits v + 1 = w := by
      refine List.countP_congr fun v hv => ?_
      rw [onesBelow_succ, onesBelow_two_pow_add, Nat.testBit_two_pow_add_eq,
        Nat.testBit_lt_two_pow (List.mem_range.mp hv)]
      rfl
    rw [pow_succ, Nat.mul_two, List.range_add, List.countP_append, hlow, List.countP_map]
    refine (congrArg (bits.choose w + ·) hhigh).trans ?_
    cases w with
    | zero => simp
    | succ w => simp only [Nat.add_right_cancel_iff, ih, Nat.choose_succ_succ, Nat.add_comm (bits.choose w)]

theorem countP_mem_cons {α : Type} (f : α → Nat) {w : Nat} {ws : List Nat} (hw : w ∉ ws) (l : List α) :
    (l.countP fun a => f a ∈ w :: ws) = (l.countP fun a => f a = w) + l.countP fun a => f a ∈ ws := by
  induction l with
  | nil => rfl
  | cons a l ih => grind

/-- How many values have one of the given weights. -/
theorem countP_onesBelow_mem (bits : Nat) {ws : List Nat} (hws : ws.Nodup) :
    ((List.range (2 ^ bits)).countP fun v => onesBelow bits v ∈ ws) = (ws.map bits.choose).sum := by
  induction ws with
  | nil => simp
  | cons w ws ih =>
    obtain ⟨hw, hws⟩ := List.nodup_cons.mp hws
    rw [countP_mem_cons _ hw, countP_onesBelow, ih hws, List.map_cons, List.sum_cons]

/-! Populated entries. -/

/-- The pattern is assigned an index. -/
def Populates (t : List Assignment) (p : Char13) : Prop := ∃ a ∈ t, a.pattern = p

theorem populates_cons {a : Assignment} {t : List Assignment} {p : Char13} :
    Populates (a :: t) p ↔ a.pattern = p ∨ Populates t p := by
  simp [Populates]

theorem decRead_isSome {t : List Assignment} {p : Char13} :
    (decRead t p).isSome = true ↔ Populates t p ∨ Populates t (complement13 p) := by
  have hdec : (decRead t p).isSome = (assignmentOf t p).isSome := by
    unfold decRead
    split
    · next h => rw [h]; rfl
    · next h => rw [h]; rfl
  rw [hdec, assignmentOf, List.find?_isSome]
  simp only [Populates, Bool.or_eq_true, beq_iff_eq]
  grind

/-- R122's loop assigns a pattern when it visits the lesser of it and its reversal. -/
theorem populates_assignFrom {vs : List Nat} (hvs : ∀ v ∈ vs, v < 2 ^ 13) (lo hi : Nat) (p : Char13) :
    Populates (assignFrom vs lo hi) p
      ↔ (p ≤ rev13 p ∧ p.toNat ∈ vs) ∨ (rev13 p < p ∧ (rev13 p).toNat ∈ vs) := by
  induction vs generalizing lo hi with
  | nil => simp [Populates, assignFrom]
  | cons v vs ih =>
    obtain ⟨hv, hrest⟩ := List.forall_mem_cons.mp hvs
    obtain ⟨f, rfl⟩ : ∃ f : Char13, f.toNat = v := ⟨BitVec.ofNat 13 v, Nat.mod_eq_of_lt hv⟩
    have hrev : rev13 p = f ↔ rev13 f = p :=
      ⟨fun h => by rw [← h, rev13_rev13], fun h => by rw [← h, rev13_rev13]⟩
    have hf : BitVec.ofNat 13 f.toNat = f := by simp
    simp only [List.mem_cons, BitVec.toNat_inj, hrev]
    by_cases hpal : f = rev13 f
    · rw [assignFrom_of_palindrome (by rwa [hf]), populates_cons, ih hrest]
      grind
    · by_cases hlt : f < rev13 f
      · rw [assignFrom_of_lt (by rwa [hf]), populates_cons, populates_cons, ih hrest, hf]
        grind
      · rw [assignFrom_of_gt (by rwa [hf]) (by rwa [hf]), ih hrest]
        grind

/-- A class populates the patterns of its weight. -/
theorem populates_buildClass (w low high : Nat) (p : Char13) :
    Populates (buildClass w low high) p ↔ popcount13 p = w := by
  have hmem (q : Char13) : q.toNat ∈ valuesOfWeight 13 w ↔ popcount13 q = w :=
    (mem_valuesOfWeight 13 w q.toNat).trans (and_iff_right q.isLt)
  rw [buildClass, populates_assignFrom fun v hv => ((mem_valuesOfWeight 13 w v).mp hv).1, hmem, hmem,
    popcount13_rev13, ← or_and_right, and_iff_right]
  rw [BitVec.le_def, BitVec.lt_def]
  exact le_or_gt _ _

theorem populates_builtTables (p : Char13) : Populates builtTables p ↔ popcount13 p = 5 ∨ popcount13 p = 2 := by
  rw [← populates_buildClass 5 0 1286, ← populates_buildClass 2 1287 1364]
  simp only [Populates, builtTables, List.mem_append, or_and_right, exists_or]

/-- DEC is populated at the weights of the two classes and at those of their complements (R62). -/
theorem decRead_builtTables_isSome (p : Char13) :
    (decRead builtTables p).isSome = true ↔ popcount13 p ∈ [5, 8, 2, 11] := by
  have hcomplement := popcount13_complement13 p
  rw [decRead_isSome, populates_builtTables, populates_builtTables]
  simp only [List.mem_cons, List.not_mem_nil, or_false]
  omega

/-- Settles O19: the weights by the loop's patterns, their number by Pascal's triangle at 13 bits. -/
theorem lookupHitsByWeight : Obligations.LookupHitsByWeight := by
  refine ⟨decRead_builtTables_isSome, ?_⟩
  calc (List.range 8192).countP (fun p => (decRead builtTables (BitVec.ofNat 13 p)).isSome)
    _ = (List.range (2 ^ 13)).countP fun v => onesBelow 13 v ∈ [5, 8, 2, 11] := by
        refine List.countP_congr fun v hv => ?_
        have hv : (BitVec.ofNat 13 v).toNat = v := Nat.mod_eq_of_lt (List.mem_range.mp hv)
        rw [decRead_builtTables_isSome, popcount13_eq_onesBelow, hv, decide_eq_true_iff]
    _ = ([5, 8, 2, 11].map (Nat.choose 13)).sum := countP_onesBelow_mem 13 (by decide)
    _ = 2730 := by decide

end Sys2Proof.Machine
end

section
/-! PROOFS. The command words and the commands (`30_encoding.md` R91 to R94, R100): the four fields determine a word,
a row of the opcode table fixes the fields its command does not take as operands, and the decoder undoes the encoder. -/

namespace Sys2Proof

/-! The fields of a word (R91). -/

section
variable (op : BitVec 8) (rsv : BitVec 4) (a : BitVec 20) (b : BitVec 32)

theorem bField_append : bField (op ++ rsv ++ a ++ b) = b := BitVec.extractLsb'_append_eq_right

theorem aField_append : aField (op ++ rsv ++ a ++ b) = a := by
  rw [aField, BitVec.extractLsb'_append_eq_of_le (by decide)]
  exact BitVec.extractLsb'_append_eq_right

theorem rsvField_append : rsvField (op ++ rsv ++ a ++ b) = rsv := by
  rw [rsvField, BitVec.extractLsb'_append_eq_of_le (by decide), BitVec.extractLsb'_append_eq_of_le (by decide)]
  exact BitVec.extractLsb'_append_eq_right

theorem opField_append : opField (op ++ rsv ++ a ++ b) = op := by
  rw [opField, BitVec.extractLsb'_append_eq_of_le (by decide), BitVec.extractLsb'_append_eq_of_le (by decide)]
  exact BitVec.extractLsb'_append_eq_left

end

/-- No bit of a word is outside its four fields. -/
theorem cmdWord_eq_iff {w w' : CmdWord} :
    w = w' ↔ opField w = opField w' ∧ rsvField w = rsvField w' ∧ aField w = aField w' ∧ bField w = bField w' := by
  constructor
  · rintro rfl
    exact ⟨rfl, rfl, rfl, rfl⟩
  · rintro ⟨hop, hrsv, ha, hb⟩
    have hop : wordOp w = wordOp w' := by rw [wordOp_eq, wordOp_eq, hop]
    have hrsv : wordRsv w = wordRsv w' := by rw [wordRsv_eq, wordRsv_eq, hrsv]
    have ha : wordA w = wordA w' := by rw [wordA_eq, wordA_eq, ha]
    have hb : wordB w = wordB w' := by rw [wordB_eq, wordB_eq, hb]
    unfold wordOp at hop
    unfold wordRsv at hrsv
    unfold wordA at ha
    unfold wordB at hb
    exact BitVec.eq_of_toNat_eq (by omega)

@[simp] theorem opField_encodeWord (i : Instr) : opField (encodeWord i) = opcodeOf i := opField_append _ _ _ _

@[simp] theorem rsvField_encodeWord (i : Instr) : rsvField (encodeWord i) = 0 := rsvField_append _ _ _ _

@[simp] theorem aField_encodeWord (i : Instr) : aField (encodeWord i) = encodedA i := aField_append _ _ _ _

@[simp] theorem bField_encodeWord (i : Instr) : bField (encodeWord i) = encodedB i := bField_append _ _ _ _

/-! The encoded word, decoded. -/

section
variable {i : Instr}

theorem plain_encodeWord (ha : encodedA i = 0) (hb : encodedB i = 0) (j : Instr) :
    plain (encodeWord i) j = .ok j := by
  simp [plain, checkRsv, checkA, checkB, ha, hb]

theorem usesB_encodeWord (ha : encodedA i = 0) (j : BitVec 32 → Instr) :
    usesB (encodeWord i) j = .ok (j (encodedB i)) := by
  simp [usesB, checkRsv, checkA, ha]

theorem usesA_encodeWord (hb : encodedB i = 0) (j : BitVec 20 → Instr) :
    usesA (encodeWord i) j = .ok (j (encodedA i)) := by
  simp [usesA, checkRsv, checkB, hb]

theorem usesAB_encodeWord (j : BitVec 20 → BitVec 32 → Instr) :
    usesAB (encodeWord i) j = .ok (j (encodedA i) (encodedB i)) := by
  simp [usesAB, checkRsv]

end

/-- Settles O1: the opcode selects the command's own arm of the decoder, and the fields pass that arm's checks. -/
theorem decodeOfEncodeIsTheInstruction : Obligations.DecodeOfEncodeIsTheInstruction := by
  intro i
  unfold decodeWord
  rw [opField_encodeWord]
  cases i with
  | mpadd b => exact usesB_encodeWord rfl .mpadd
  | mpsub b => exact usesB_encodeWord rfl .mpsub
  | mpmuladd a b => exact usesAB_encodeWord .mpmuladd
  | mpdivmod a => exact usesA_encodeWord rfl .mpdivmod
  | tblbuild | mpclr | mpisz | fcscalc | loadtxt | permfwd | perminv | flipad | cwenc | cwdec | pack | unpack
  | encode | decode | lenfix | bitfix => exact plain_encodeWord rfl rfl _

/-! The words of a command (R93, R94). -/

/-- The command takes operand A, as check 3 of R93 lists it. -/
def takesA (i : Instr) : Bool := [0x14, 0x15].contains (opcodeOf i).toNat

/-- The command takes operand B, as check 4 of R93 lists it. -/
def takesB (i : Instr) : Bool := [0x12, 0x13, 0x14].contains (opcodeOf i).toNat

/-- The same command, with the operands it takes replaced. -/
def withOperands (a : BitVec 20) (b : BitVec 32) : Instr → Instr
  | .mpadd _ => .mpadd b
  | .mpsub _ => .mpsub b
  | .mpmuladd _ _ => .mpmuladd a b
  | .mpdivmod _ => .mpdivmod a
  | i => i

section
variable (a : BitVec 20) (b : BitVec 32) (i : Instr)

@[simp] theorem opcodeOf_withOperands : opcodeOf (withOperands a b i) = opcodeOf i := by
  cases i <;> rfl

@[simp] theorem mnemonicOf_withOperands : mnemonicOf (withOperands a b i) = mnemonicOf i := by
  cases i <;> rfl

theorem encodedA_withOperands : encodedA (withOperands a b i) = if takesA i then a else 0 := by
  cases i <;> rfl

theorem encodedB_withOperands : encodedB (withOperands a b i) = if takesB i then b else 0 := by
  cases i <;> rfl

end

theorem encodedA_eq_zero {i : Instr} (h : takesA i = false) : encodedA i = 0 := by
  cases i with
  | mpmuladd a b | mpdivmod a => cases h
  | _ => rfl

theorem encodedB_eq_zero {i : Instr} (h : takesB i = false) : encodedB i = 0 := by
  cases i with
  | mpadd b | mpsub b | mpmuladd a b => cases h
  | _ => rfl

/-- The word has the opcode of `i` and 0 in every field that is no operand of it. -/
structure Carries (w : CmdWord) (i : Instr) : Prop where
  op : opField w = opcodeOf i
  rsv : rsvField w = 0
  unusedA : takesA i = false → aField w = 0
  unusedB : takesB i = false → bField w = 0

theorem carries_encodeWord (i : Instr) : Carries (encodeWord i) i where
  op := opField_encodeWord i
  rsv := rsvField_encodeWord i
  unusedA h := (aField_encodeWord i).trans (encodedA_eq_zero h)
  unusedB h := (bField_encodeWord i).trans (encodedB_eq_zero h)

/-- Such a word is the encoding of the command with the operands the word holds. -/
theorem Carries.eq_encodeWord {w : CmdWord} {i : Instr} (h : Carries w i) :
    w = encodeWord (withOperands (aField w) (bField w) i) := by
  rw [cmdWord_eq_iff, opField_encodeWord, rsvField_encodeWord, aField_encodeWord, bField_encodeWord,
    opcodeOf_withOperands, encodedA_withOperands, encodedB_withOperands]
  refine ⟨h.op, h.rsv, ?_, ?_⟩
  · split
    · rfl
    · next ha => exact h.unusedA (Bool.eq_false_of_not_eq_true ha)
  · split
    · rfl
    · next hb => exact h.unusedB (Bool.eq_false_of_not_eq_true hb)

/-- So it decodes to that command. -/
theorem Carries.decodeWord_eq {w : CmdWord} {i : Instr} (h : Carries w i) :
    decodeWord w = .ok (withOperands (aField w) (bField w) i) :=
  (congrArg decodeWord h.eq_encodeWord).trans (decodeOfEncodeIsTheInstruction _)

/-- The commands in the order of R94's table, with their operands 0. -/
def commands : List Instr :=
  [.tblbuild, .mpclr, .mpisz, .mpadd 0, .mpsub 0, .mpmuladd 0 0, .mpdivmod 0, .fcscalc, .loadtxt, .permfwd, .perminv,
   .flipad, .cwenc, .cwdec, .pack, .unpack, .encode, .decode, .lenfix, .bitfix]

theorem assignedOpcodes_eq : assignedOpcodes = commands.map fun i => (opcodeOf i).toNat := by decide

/-- R93's four checks, over the fields, leave the words of the commands. -/
theorem carries_of_legalWord {w : CmdWord} (h : legalWord w = true) : ∃ i, Carries w i := by
  simp only [legalWord, opcodeAssigned, reservedClear, operandAAllowed, operandBAllowed, wordOp_eq, wordRsv_eq,
    wordA_eq, wordB_eq, Bool.and_eq_true, Bool.or_eq_true, beq_iff_eq] at h
  obtain ⟨⟨⟨hop, hrsv⟩, ha⟩, hb⟩ := h
  rw [List.contains_iff_mem, assignedOpcodes_eq] at hop
  obtain ⟨i, -, hi⟩ := List.mem_map.mp hop
  rw [← hi] at ha hb
  exact ⟨i, BitVec.eq_of_toNat_eq hi.symm, BitVec.eq_of_toNat_eq hrsv,
    fun hA => BitVec.eq_of_toNat_eq (ha.resolve_right (ne_true_of_eq_false hA)),
    fun hB => BitVec.eq_of_toNat_eq (hb.resolve_right (ne_true_of_eq_false hB))⟩

/-- Settles O2: a word that decodes is legal, so it is the encoding of some command, which is what it decodes to. -/
theorem encodeOfDecodeIsTheWord : Obligations.EncodeOfDecodeIsTheWord := by
  intro w i h
  obtain ⟨j, hj⟩ := carries_of_legalWord (legalWord_of_decodeWord h)
  have hi : withOperands (aField w) (bField w) j = i := Except.ok.inj (hj.decodeWord_eq.symm.trans h)
  rw [← hi, ← hj.eq_encodeWord]

/-! The opcode table (R94). -/

/-- The mask of one operand: an operand the command takes is free, any other is fixed at 0. -/
def operandMask (n : Nat) (takes : Bool) : BitVec n := if takes then 0 else BitVec.allOnes n

theorem and_operandMask_eq_zero {n : Nat} {x : BitVec n} {takes : Bool} :
    x &&& operandMask n takes = 0#n ↔ (takes = false → x = 0) := by
  cases takes <;> simp [operandMask]

/-- The row of a command, field by field. -/
def rowOf (i : Instr) : OpcodeRow where
  mnemonic := mnemonicOf i
  matchBits := opcodeOf i ++ 0#4 ++ 0#20 ++ 0#32
  maskBits := BitVec.allOnes 8 ++ BitVec.allOnes 4 ++ operandMask 20 (takesA i) ++ operandMask 32 (takesB i)

theorem opcodeTable_eq : opcodeTable = commands.map rowOf := by decide

theorem exists_rowOf_eq {r : OpcodeRow} (h : r ∈ opcodeTable) : ∃ i, rowOf i = r := by
  rw [opcodeTable_eq] at h
  obtain ⟨i, -, hi⟩ := List.mem_map.mp h
  exact ⟨i, hi⟩

theorem rowOf_mem (i : Instr) : rowOf i ∈ opcodeTable := by
  cases i with
  | mpadd b => exact (by decide : rowOf (.mpadd 0) ∈ opcodeTable)
  | mpsub b => exact (by decide : rowOf (.mpsub 0) ∈ opcodeTable)
  | mpmuladd a b => exact (by decide : rowOf (.mpmuladd 0 0) ∈ opcodeTable)
  | mpdivmod a => exact (by decide : rowOf (.mpdivmod 0) ∈ opcodeTable)
  | _ => decide

/-- A mnemonic names one row. -/
theorem row_eq_of_mnemonic_eq {r r' : OpcodeRow} (hr : r ∈ opcodeTable) (hr' : r' ∈ opcodeTable)
    (h : r.mnemonic = r'.mnemonic) : r = r' :=
  List.inj_on_of_nodup_map (f := OpcodeRow.mnemonic) (by decide) hr hr' h

/-- A mask acts on each field by itself. -/
theorem and_eq_iff_fields {w m v : CmdWord} :
    w &&& m = v ↔ opField w &&& opField m = opField v ∧ rsvField w &&& rsvField m = rsvField v
      ∧ aField w &&& aField m = aField v ∧ bField w &&& bField m = bField v := by
  simp only [cmdWord_eq_iff, opField, rsvField, aField, bField, BitVec.extractLsb'_and]

/-- The test by mask and match is the one by fields. -/
theorem selects_rowOf {i : Instr} {w : CmdWord} : selects (rowOf i) w = true ↔ Carries w i := by
  rw [selects, beq_iff_eq, and_eq_iff_fields]
  simp only [rowOf, opField_append, rsvField_append, aField_append, bField_append, BitVec.and_allOnes,
    and_operandMask_eq_zero]
  exact ⟨fun ⟨hop, hrsv, ha, hb⟩ => ⟨hop, hrsv, ha, hb⟩, fun h => ⟨h.op, h.rsv, h.unusedA, h.unusedB⟩⟩

/-- The table selects the words that decode to the row's command (R93). -/
theorem selects_iff_decodes {r : OpcodeRow} (hr : r ∈ opcodeTable) (w : CmdWord) :
    selects r w = true ↔ ∃ i, decodeWord w = .ok i ∧ mnemonicOf i = r.mnemonic := by
  constructor
  · intro h
    obtain ⟨i, rfl⟩ := exists_rowOf_eq hr
    exact ⟨_, (selects_rowOf.mp h).decodeWord_eq, mnemonicOf_withOperands _ _ i⟩
  · rintro ⟨i, hi, hname⟩
    rw [← row_eq_of_mnemonic_eq (rowOf_mem i) hr hname, ← encodeOfDecodeIsTheWord w i hi]
    exact selects_rowOf.mpr (carries_encodeWord i)

/-- Settles O3: R93's checks and the table's masks both pick out the words the commands have. -/
theorem legalWordsAreTheCommands : Obligations.LegalWordsAreTheCommands := by
  refine ⟨fun w => ⟨?legal, ?decodes⟩, fun w r hr => selects_iff_decodes hr w, ?oneRow⟩
  case legal =>
    intro h
    obtain ⟨i, hi⟩ := carries_of_legalWord h
    exact ⟨_, hi.decodeWord_eq⟩
  case decodes =>
    rintro ⟨i, hi⟩
    exact legalWord_of_decodeWord hi
  case oneRow =>
    intro w r hr r' hr' h h'
    obtain ⟨i, hi, hname⟩ := (selects_iff_decodes hr w).mp h
    obtain ⟨j, hj, hname'⟩ := (selects_iff_decodes hr' w).mp h'
    obtain rfl : i = j := Except.ok.inj (hi.symm.trans hj)
    exact row_eq_of_mnemonic_eq hr hr' (hname.symm.trans hname')

/-- Settles O4: the fifteen words of R100, evaluated. -/
theorem workedEncodingsDecode : Obligations.WorkedEncodingsDecode := by
  unfold Obligations.WorkedEncodingsDecode
  decide

end Sys2Proof
end

section
/-! PROOFS. The codeword tables (`40_tables.md` R122 to R127): TBLBUILD, the build as R122's loop over all 8192 values,
and ENC as the inverse of DEC and FCT. Distinctness and completeness come by counting: as many different values as a
list has entries fill it, each once. -/

namespace Sys2Proof.Machine

open Sys2Proof.Claims

/-! TBLBUILD (R125). -/

theorem exec_tblbuild (s : State) : exec .tblbuild s = .next (complete (ensureTables s)) := rfl

/-- Settles O14: TBLBUILD is the build (R126), then the end of a command (R301). -/
theorem tblbuildResult : Obligations.TblbuildResult := by
  refine ⟨by decide, fun s => ?_⟩
  rw [exec_tblbuild]
  rfl

/-! The build and R122's loop. -/

/-- The values the build visits, in order, are the ones the loop does not skip. -/
theorem valuesOfWeight_eq_filter (bits w : Nat) :
    valuesOfWeight bits w = (List.range (2 ^ bits)).filter fun v => onesBelow bits v = w := by
  induction bits generalizing w with
  | zero => cases w <;> simp [valuesOfWeight, onesBelow]
  | succ bits ih =>
    have hlow : ((List.range (2 ^ bits)).filter fun v => onesBelow (bits + 1) v = w) = valuesOfWeight bits w := by
      rw [ih]
      refine List.filter_congr fun v hv => ?_
      rw [onesBelow_succ, Nat.testBit_lt_two_pow (List.mem_range.mp hv)]
      rfl
    have hhigh : ((List.range (2 ^ bits)).filter fun v => onesBelow (bits + 1) (2 ^ bits + v) = w)
        = (List.range (2 ^ bits)).filter fun v => onesBelow bits v + 1 = w := by
      refine List.filter_congr fun v hv => ?_
      rw [onesBelow_succ, onesBelow_two_pow_add, Nat.testBit_two_pow_add_eq,
        Nat.testBit_lt_two_pow (List.mem_range.mp hv)]
      rfl
    rw [pow_succ, Nat.mul_two, List.range_add, List.filter_append, hlow, List.filter_map]
    refine Eq.trans ?_ (congrArg (fun l => valuesOfWeight bits w ++ l.map (2 ^ bits + ·)) hhigh.symm)
    cases w with
    | zero => simp [valuesOfWeight]
    | succ w => simp only [valuesOfWeight, Nat.add_right_cancel_iff, ih]

/-- R122's loop makes the assignments of the values it does not skip. -/
theorem loopClass_eq_assignFrom (w : Nat) (vs : List Nat) (lo hi : Nat) :
    loopClass w vs lo hi = assignFrom (vs.filter fun v => popcount13 (BitVec.ofNat 13 v) = w) lo hi := by
  induction vs generalizing lo hi with
  | nil => rfl
  | cons v vs ih =>
    by_cases hw : popcount13 (BitVec.ofNat 13 v) = w
    · simp [loopClass, assignFrom, hw, ih]
    · simp [loopClass, hw, ih]

theorem buildClass_eq_loopClass (w low high : Nat) :
    buildClass w low high = loopClass w (List.range 8192) low high := by
  rw [buildClass, loopClass_eq_assignFrom, valuesOfWeight_eq_filter]
  refine congrArg (assignFrom · low high) (List.filter_congr fun v hv => ?_)
  have hv : (BitVec.ofNat 13 v).toNat = v := Nat.mod_eq_of_lt (List.mem_range.mp hv)
  rw [popcount13_eq_onesBelow, hv]

/-- Settles O17: each class is its loop. -/
theorem tableBuildIsTheLoop : Obligations.TableBuildIsTheLoop :=
  congrArg₂ (· ++ ·) (buildClass_eq_loopClass 5 0 1286) (buildClass_eq_loopClass 2 1287 1364)

/-! The tables invert one another (R127). -/

theorem length_builtTables : builtTables.length = 1365 := by
  rw [builtTables, List.length_append, length_buildClass_five, length_buildClass_two]

/-- R127: every codeword is the index of an assignment, for the 1365 indices are different. -/
theorem exists_assignment_of_index {k : Nat} (hk : k < 1365) : ∃ a ∈ builtTables, a.index = BitVec.ofNat 11 k := by
  have hnodup : (builtTables.map fun a => a.index.toNat).Nodup := List.pairwise_map.mpr pairwise_index_builtTables
  have hrange : (builtTables.map fun a => a.index.toNat) ⊆ List.range 1365 := by
    intro i hi
    obtain ⟨a, ha, rfl⟩ := List.mem_map.mp hi
    exact List.mem_range.mpr (Nat.lt_succ_of_le (index_le_of_mem_builtTables ha))
  have hperm := (hnodup.subperm hrange).perm_of_length_le (by simp [length_builtTables])
  obtain ⟨a, ha, hindex⟩ := List.mem_map.mp (hperm.mem_iff.mpr (List.mem_range.mpr hk))
  exact ⟨a, ha, by rw [← hindex, BitVec.ofNat_toNat, BitVec.setWidth_eq]⟩

/-- The index of an assignment tells the class it is from (R124). -/
theorem popcount13_pattern {a : Assignment} (ha : a ∈ builtTables) :
    popcount13 a.pattern = if a.index.toNat ≤ 1286 then 5 else 2 := by
  rcases List.mem_append.mp ha with h | h
  · rw [if_pos (buildClass_five_index.1 a h).2]
    exact (populates_buildClass 5 0 1286 _).mp ⟨a, h, rfl⟩
  · have hindex := (buildClass_two_index.1 a h).1
    rw [if_neg (by omega)]
    exact (populates_buildClass 2 1287 1364 _).mp ⟨a, h, rfl⟩

theorem popcount13_pattern_le {a : Assignment} (ha : a ∈ builtTables) : popcount13 a.pattern ≤ 5 := by
  rw [popcount13_pattern ha]
  split <;> decide

/-- The values the two classes have patterns for (R120), as a list without repetition. -/
def patternValues : List Nat := (List.range (2 ^ 13)).filter fun v => onesBelow 13 v ∈ [5, 2]

theorem length_patternValues : patternValues.length = 1365 := by
  rw [patternValues, ← List.countP_eq_length_filter, countP_onesBelow_mem 13 (by decide)]
  decide

/-- Every value of weight 5 or 2 is assigned an index. -/
theorem patternValues_subset : patternValues ⊆ builtTables.map fun a => a.pattern.toNat := by
  intro v hv
  obtain ⟨hlt, hweight⟩ := List.mem_filter.mp hv
  have hv : (BitVec.ofNat 13 v).toNat = v := Nat.mod_eq_of_lt (List.mem_range.mp hlt)
  obtain ⟨a, ha, hpattern⟩ := (populates_builtTables (BitVec.ofNat 13 v)).mpr
    (by simpa [popcount13_eq_onesBelow, hv] using hweight)
  exact List.mem_map.mpr ⟨a, ha, by rw [hpattern, hv]⟩

/-- R127: no pattern is assigned twice, for the 1365 assignments must serve 1365 different values. -/
theorem nodup_pattern_builtTables : (builtTables.map fun a => a.pattern.toNat).Nodup := by
  have hnodup : patternValues.Nodup := List.nodup_range.filter _
  have hlength : (builtTables.map fun a => a.pattern.toNat).length ≤ patternValues.length := by
    rw [List.length_map, length_builtTables, length_patternValues]
  exact ((hnodup.subperm patternValues_subset).perm_of_length_le hlength).nodup_iff.mp hnodup

/-- DEC and FCT at a pattern or its complement are those of the pattern's own assignment (R123). -/
theorem assignmentOf_eq {a : Assignment} (ha : a ∈ builtTables) {p : Char13}
    (hp : p = a.pattern ∨ p = complement13 a.pattern) : assignmentOf builtTables p = some a := by
  have hsome : (assignmentOf builtTables p).isSome = true := by
    rw [assignmentOf, List.find?_isSome]
    refine ⟨a, ha, ?_⟩
    rcases hp with rfl | rfl <;> simp [complement13_complement13]
  obtain ⟨b, hb⟩ := Option.isSome_iff_exists.mp hsome
  obtain ⟨hmem, hpattern⟩ := assignmentOf_some hb
  have hpair : b.pattern = a.pattern ∨ b.pattern = complement13 a.pattern := by
    rcases hp with rfl | rfl
    · exact hpattern
    · rw [complement13_complement13] at hpattern
      exact hpattern.symm
  have hsame : b.pattern = a.pattern := by
    refine hpair.resolve_right fun h => ?_
    have hcomplement := popcount13_complement13 a.pattern
    have hweights := popcount13_pattern_le ha
    have hweight := popcount13_pattern_le hmem
    rw [h] at hweight
    omega
  rw [hb, List.inj_on_of_nodup_map nodup_pattern_builtTables hmem ha (congrArg BitVec.toNat hsame)]

/-- DEC and FCT at an assigned pattern and at its complement (R123). -/
theorem lookup_of_mem {a : Assignment} (ha : a ∈ builtTables) :
    decRead builtTables a.pattern = some a.index ∧ decRead builtTables (complement13 a.pattern) = some a.index
      ∧ fctRead builtTables a.pattern = false ∧ fctRead builtTables (complement13 a.pattern) = true := by
  have hne : a.pattern ≠ complement13 a.pattern := by
    intro h
    have hcomplement := popcount13_complement13 a.pattern
    rw [← h] at hcomplement
    omega
  simp [decRead, fctRead, assignmentOf_eq ha (.inl rfl), assignmentOf_eq ha (.inr rfl), hne]

/-- Settles O18: ENC reads an assignment by its index, DEC and FCT the same one by its pattern. -/
theorem builtTablesAreInverse : Obligations.BuiltTablesAreInverse := by
  refine ⟨fun k => ?weight, fun k => ?inverse, fun p k h => ⟨decRead_le h, encRead_of_decRead h⟩⟩
  all_goals obtain ⟨a, ha, hindex⟩ := exists_assignment_of_index k.isLt
  case weight =>
    rw [← hindex, encRead_index ha, popcount13_pattern ha, hindex,
      toNat_ofNat_index (Nat.le_of_lt k.isLt) (by decide)]
  case inverse =>
    rw [← hindex, encRead_index ha]
    exact lookup_of_mem ha

end Sys2Proof.Machine
end

section
/-! PROOFS. Multi-precision arithmetic (`41_multiprecision.md` R141 to R152): each operation determines the number it
leaves by its value, and the carry, the borrow and the remainder with it; then the commands, and R152's inverse laws. -/

namespace Sys2Proof.Machine

open Sys2Proof.Claims

/-! The operations on numbers. -/

theorem eq_numOf_of_numVal {num : Number} {v : Nat} (h : numVal num = v) : num = numOf v := by
  rw [← h, numOf_numVal]

/-- A number and the carry out of it are the remainder and the quotient by 2^110 of the sum they keep. -/
theorem numOf_and_carryOvf_of_sum {num : Number} {c v : Nat} (h : numVal num + c * 2 ^ 110 = v) :
    num = numOf (v % 2 ^ 110) ∧ carryOvf c = decide (2 ^ 110 ≤ v) := by
  have hlt := numVal_lt num
  refine ⟨eq_numOf_of_numVal (by omega), ?_⟩
  rw [carryOvf, bne, Bool.eq_iff_iff]
  simp only [Bool.not_eq_true', beq_eq_false_iff_ne, decide_eq_true_eq]
  omega

section
variable (num : Number)

theorem mpAdd_eq (s : Nat) :
    (mpAdd num s).1 = numOf ((numVal num + s) % 2 ^ 110)
      ∧ carryOvf (mpAdd num s).2 = decide (2 ^ 110 ≤ numVal num + s) :=
  numOf_and_carryOvf_of_sum (numVal_mpAdd num s)

theorem mpMulAdd_eq (m a : Nat) :
    (mpMulAdd num m a).1 = numOf ((numVal num * m + a) % 2 ^ 110)
      ∧ carryOvf (mpMulAdd num m a).2 = decide (2 ^ 110 ≤ numVal num * m + a) :=
  numOf_and_carryOvf_of_sum (numVal_mpMulAdd num m a)

/-- R143 in the naturals: one multiple of 2^110 is enough for a scalar that is no larger. -/
theorem mpSub_eq {s : Nat} (hs : s ≤ 2 ^ 110) :
    mpSub num s = (numOf ((numVal num + 2 ^ 110 - s) % 2 ^ 110), decide (numVal num < s)) := by
  have hlt := numVal_lt num
  by_cases h : s ≤ numVal num
  · have hv : (numVal num + 2 ^ 110 - s) % 2 ^ 110 = numVal num - s := by omega
    rw [mpSub, if_pos h, hv, decide_eq_false (Nat.not_lt.mpr h)]
  · have hv : (((numVal num : Int) - (s : Int)) % (2 ^ 110 : Int)).toNat
        = (numVal num + 2 ^ 110 - s) % 2 ^ 110 := by omega
    rw [mpSub, if_neg h, hv, decide_eq_true (Nat.lt_of_not_le h)]

theorem mpDivmod_eq {d : Nat} (hd : 0 < d) : mpDivmod num d = (numOf (numVal num / d), numVal num % d) :=
  have ⟨hq, hr⟩ := mpDivmod_spec num d hd
  Prod.ext (eq_numOf_of_numVal hq) hr

theorem wordsVal_eq_zero (ws : List Word) : wordsVal ws = 0 ↔ ∀ w ∈ ws, w = 0 := by
  induction ws with
  | nil => simp [wordsVal]
  | cons w ws ih =>
    have hw : w.toNat = 0 ↔ w = 0 := (BitVec.toNat_eq (y := 0)).symm
    simp [wordsVal_cons, ih, hw]

theorem forall_mem_words (p : Word → Prop) : (∀ w ∈ num.toList, p w) ↔ ∀ i : Fin 10, p num[i] := by
  constructor
  · intro h i
    exact h _ (by simp)
  · intro h w hw
    obtain ⟨i, hi, rfl⟩ := List.mem_iff_getElem.mp hw
    exact h ⟨i, by simpa using hi⟩

/-- R141: every word is 0 exactly where the value is. -/
theorem forall_word_eq_zero_iff : (∀ i : Fin 10, num[i] = 0) ↔ numVal num = 0 := by
  rw [numVal_eq_wordsVal, wordsVal_eq_zero, forall_mem_words]

theorem mpIszero_eq : mpIszero num = decide (∀ i : Fin 10, num[i] = 0) := by
  rw [Bool.eq_iff_iff, decide_eq_true_iff, ← forall_mem_words num (· = 0), mpIszero, List.all_eq_true]
  simp only [beq_iff_eq]

end

/-! The commands (R146 to R151). -/

/-- The word of a command without operand A: the reserved bits and A are one field of 24 zeros (R91). -/
theorem encodeWord_of_encodedA_eq_zero {i : Instr} (h : encodedA i = 0) :
    encodeWord i = opcodeOf i ++ 0#24 ++ encodedB i := by
  have hzeros : (opcodeOf i ++ 0#4 ++ 0#20 : BitVec 32) = opcodeOf i ++ 0#24 := by
    rw [BitVec.append_assoc, BitVec.cast_eq]
    rfl
  rw [encodeWord, h]
  exact congrArg (fun high : BitVec 32 => high ++ encodedB i) hzeros

/-- Settles O20: MPCLR writes N and ends the command (R301). -/
theorem mpclrResult : Obligations.MpclrResult := ⟨by decide, fun _ => rfl⟩

/-- Settles O21: the words are all 0 exactly where `mp_iszero` (R141) holds. -/
theorem mpiszResult : Obligations.MpiszResult := by
  refine ⟨by decide, forall_word_eq_zero_iff, fun s => ?_⟩
  rw [← mpIszero_eq]
  rfl

/-- Settles O22: what R142 leaves, and its carry. -/
theorem mpaddResult : Obligations.MpaddResult := by
  refine ⟨fun b => encodeWord_of_encodedA_eq_zero (i := .mpadd b) rfl, fun b s => ?_⟩
  obtain ⟨hnum, hovf⟩ := mpAdd_eq s.num b.toNat
  rw [← hnum, ← hovf]
  rfl

/-- Settles O23: what R143 leaves, and its borrow; the operand is below 2^110. -/
theorem mpsubResult : Obligations.MpsubResult := by
  refine ⟨fun b => encodeWord_of_encodedA_eq_zero (i := .mpsub b) rfl, fun b s => ?_⟩
  have hb : b.toNat ≤ 2 ^ 110 := b.isLt.le.trans (Nat.pow_le_pow_right (by decide) (by decide))
  have hsub := mpSub_eq s.num hb
  calc exec (.mpsub b) s
      = .next (ended .ok .none { s with num := (mpSub s.num b.toNat).1, ovf := (mpSub s.num b.toNat).2 }) := rfl
    _ = _ := by rw [hsub]

/-- Settles O24: what R144 leaves, and its carry. -/
theorem mpmuladdResult : Obligations.MpmuladdResult := by
  refine ⟨fun _ _ => rfl, fun a b s => ?_⟩
  obtain ⟨hnum, hovf⟩ := mpMulAdd_eq s.num a.toNat b.toNat
  rw [← hnum, ← hovf]
  rfl

theorem exec_mpdivmod_zero (s : State) : exec (.mpdivmod 0) s = .next (ended .operand .none s) := rfl

theorem exec_mpdivmod {a : BitVec 20} (ha : 0 < a.toNat) (s : State) :
    exec (.mpdivmod a) s
      = .next (ended .ok .none
          { s with num := numOf (numVal s.num / a.toNat), rem := BitVec.ofNat 20 (numVal s.num % a.toNat) }) := by
  calc exec (.mpdivmod a) s
      = .next (ended .ok .none
          { s with num := (mpDivmod s.num a.toNat).1, rem := BitVec.ofNat 20 (mpDivmod s.num a.toNat).2 }) :=
        if_neg ha.ne'
    _ = _ := by rw [mpDivmod_eq s.num ha]

/-- A remainder by a 20-bit divisor fits REM. -/
theorem toNat_ofNat_mod {a : BitVec 20} (ha : 0 < a.toNat) (v : Nat) :
    (BitVec.ofNat 20 (v % a.toNat)).toNat = v % a.toNat := by
  rw [BitVec.toNat_ofNat, Nat.mod_eq_of_lt ((Nat.mod_lt v ha).trans a.isLt)]

/-- Settles O25: R151's test of the divisor, then R145's division. -/
theorem mpdivmodResult : Obligations.MpdivmodResult := by
  refine ⟨fun _ => rfl, fun a s => ⟨?zero, fun ha => ?divides⟩⟩
  case zero =>
    rintro rfl
    exact exec_mpdivmod_zero s
  case divides =>
    have ha : 0 < a.toNat := Nat.pos_of_ne_zero fun h => ha (BitVec.eq_of_toNat_eq h)
    exact ⟨_, exec_mpdivmod ha s, rfl, toNat_ofNat_mod ha _⟩

/-! The inverse laws (R152). -/

section
variable {s t u : State} {b : BitVec 32}

/-- Without overflow, dividing by the multiplier takes off the product and leaves the addend. -/
theorem mpdivmod_restores_mpmuladd {a : BitVec 20} (hba : b.toNat < a.toNat)
    (hlt : numVal s.num * a.toNat + b.toNat < 2 ^ 110) (ht : exec (.mpmuladd a b) s = .next t)
    (hu : exec (.mpdivmod a) t = .next u) : u.num = s.num ∧ u.rem.toNat = b.toNat := by
  have ha : 0 < a.toNat := Nat.zero_lt_of_lt hba
  rw [mpmuladdResult.2] at ht
  cases ht
  rw [exec_mpdivmod ha] at hu
  cases hu
  have hv : numVal (numOf ((numVal s.num * a.toNat + b.toNat) % 2 ^ 110)) = a.toNat * numVal s.num + b.toNat := by
    rw [numVal_numOf, Nat.mod_mod, Nat.mod_eq_of_lt hlt, Nat.mul_comm]
  constructor
  · show numOf (numVal (numOf _) / a.toNat) = s.num
    rw [hv, Nat.mul_add_div ha, Nat.div_eq_of_lt hba, Nat.add_zero, numOf_numVal]
  · show (BitVec.ofNat 20 (numVal (numOf _) % a.toNat)).toNat = b.toNat
    rw [toNat_ofNat_mod ha, hv, Nat.mul_add_mod, Nat.mod_eq_of_lt hba]

/-- A sum and the difference that undoes it both wrap once or not at all. -/
theorem mpsub_restores_mpadd (ht : exec (.mpadd b) s = .next t) (hu : exec (.mpsub b) t = .next u) :
    u.num = s.num ∧ u.ovf = t.ovf := by
  rw [mpaddResult.2] at ht
  cases ht
  rw [mpsubResult.2] at hu
  cases hu
  have hn := numVal_lt s.num
  have hb := b.isLt
  constructor
  · show numOf ((numVal (numOf _) + 2 ^ 110 - b.toNat) % 2 ^ 110) = s.num
    refine (eq_numOf_of_numVal ?_).symm
    rw [numVal_numOf]
    omega
  · show decide (numVal (numOf _) < b.toNat) = decide (2 ^ 110 ≤ numVal s.num + b.toNat)
    rw [numVal_numOf, decide_eq_decide]
    omega

end

/-- Settles O27: the two laws of R152. -/
theorem inverseArithmeticRestoresN : Obligations.InverseArithmeticRestoresN :=
  ⟨fun _ _ _ _ _ => mpdivmod_restores_mpmuladd, fun _ _ _ _ => mpsub_restores_mpadd⟩

end Sys2Proof.Machine
end

section
/-! PROOFS. The frame check sequence (`42_fcs.md` R172 to R174): an advance is additive, so the sequence is affine; and
the advances of a word take its bits in one at a time, so the word loop is the bit-serial form. -/

namespace Sys2Proof.Machine

open Sys2Proof.Claims

/-- What the bit that leaves the state adds back to it (R172). -/
def feedback (b : Bool) : Fcs := if b then 0x735 else 0

theorem feedback_xor (b c : Bool) : feedback (b ^^ c) = feedback b ^^^ feedback c := by
  cases b <;> cases c <;> decide

theorem fcsAdvance_eq_xor_feedback (f : Fcs) : fcsAdvance f = (f <<< 1) ^^^ feedback (f.getLsbD 10) := by
  rw [fcsAdvance_eq]
  cases f.getLsbD 10 <;> simp [feedback]

theorem fcsBit_eq_xor_feedback (f : Fcs) (b : Bool) : fcsBit f b = (f <<< 1) ^^^ feedback (f.getLsbD 10 ^^ b) := by
  rw [fcsBit, Bool.bne_eq_xor]
  cases f.getLsbD 10 ^^ b <;> simp [feedback]

/-! The affine law (R174). -/

theorem fcsAdvance_xor (f g : Fcs) : fcsAdvance (f ^^^ g) = fcsAdvance f ^^^ fcsAdvance g := by
  simp only [fcsAdvance_eq_xor_feedback, BitVec.shiftLeft_xor_distrib, BitVec.getLsbD_xor, feedback_xor]
  ac_rfl

theorem fcsAdvances_xor (k : Nat) (f g : Fcs) : fcsAdvances k (f ^^^ g) = fcsAdvances k f ^^^ fcsAdvances k g := by
  induction k generalizing f g with
  | zero => rfl
  | succ k ih => rw [fcsAdvances, fcsAdvance_xor, ih, fcsAdvances, fcsAdvances]

theorem fcsWord_xor (f g : Fcs) (u v : Word) : fcsWord (f ^^^ g) (u ^^^ v) = fcsWord f u ^^^ fcsWord g v := by
  have h : f ^^^ g ^^^ (u ^^^ v) = f ^^^ u ^^^ (g ^^^ v) := by ac_rfl
  rw [fcsWord, h, fcsAdvances_xor, fcsWord, fcsWord]

/-- Starting values and words add up to what each gives by itself. -/
theorem foldl_fcsWord_xor {α : Type} (u v : α → Word) (l : List α) (f g : Fcs) :
    l.foldl (fun f i => fcsWord f (u i ^^^ v i)) (f ^^^ g)
      = l.foldl (fun f i => fcsWord f (u i)) f ^^^ l.foldl (fun f i => fcsWord f (v i)) g := by
  induction l generalizing f g with
  | nil => rfl
  | cons i l ih => simp only [List.foldl_cons, fcsWord_xor, ih]

theorem calcfcs_ofFn (u : Fin 10 → Word) :
    calcfcs (Vector.ofFn u) = (List.finRange 10).foldl (fun f i => fcsWord f (u i)) fcsInit := by
  rw [calcfcs, Vector.toList_ofFn, List.ofFn_eq_map, List.foldl_map]

theorem calcfcs_eq_foldl (num : Number) :
    calcfcs num = (List.finRange 10).foldl (fun f i => fcsWord f num[i]) fcsInit := by
  rw [← calcfcs_ofFn]
  exact congrArg calcfcs Vector.ofFn_getElem.symm

/-- Settles O29: the word loop is additive in the starting value and the words together, and FCS_INIT taken three
times is FCS_INIT. -/
theorem fcsIsAffine : Obligations.FcsIsAffine := by
  intro a b
  have hinit : fcsInit = fcsInit ^^^ fcsInit ^^^ fcsInit := by decide
  have hzero (i : Fin 10) : (Vector.replicate 10 (0 : Word))[i] = 0 := Vector.getElem_replicate _
  calc calcfcs (Vector.ofFn fun i => a[i] ^^^ b[i])
      = (List.finRange 10).foldl (fun f i => fcsWord f (a[i] ^^^ b[i] ^^^ 0)) (fcsInit ^^^ fcsInit ^^^ fcsInit) := by
        simp only [calcfcs_ofFn, ← hinit, BitVec.ofNat_eq_ofNat, BitVec.xor_zero]
    _ = calcfcs a ^^^ calcfcs b ^^^ calcfcs (Vector.replicate 10 0) := by
        simp only [foldl_fcsWord_xor, calcfcs_eq_foldl, hzero]

/-! The bit-serial form (R172). -/

/-- The low `k` bits of `v`, most significant first. -/
def lowBits (v : Nat) : Nat → List Bool
  | 0 => []
  | k + 1 => v.testBit k :: lowBits v k

theorem lowBits_eq_map (v k : Nat) : lowBits v k = (List.range k).map fun i => v.testBit (k - 1 - i) := by
  induction k with
  | zero => rfl
  | succ k ih =>
    rw [lowBits, ih, List.range_succ_eq_map, List.map_cons, List.map_map]
    simp [Function.comp_def, Nat.sub_sub, Nat.add_comm]

theorem fcsSerial_eq (v : Nat) : fcsSerial v = (lowBits v 110).foldl fcsBit fcsInit := by
  rw [lowBits_eq_map]
  rfl

/-- The bits of a number put together from a high and a low part. -/
theorem lowBits_add {k l : Nat} (hl : l < 2 ^ k) (h m : Nat) :
    lowBits (h * 2 ^ k + l) (m + k) = lowBits h m ++ lowBits l k := by
  have htest (j : Nat) := Nat.testBit_two_pow_mul_add h hl j
  induction m with
  | zero =>
    rw [Nat.zero_add, lowBits, List.nil_append, lowBits_eq_map, lowBits_eq_map]
    refine List.map_congr_left fun i hi => ?_
    have hik : i < k := List.mem_range.mp hi
    rw [Nat.mul_comm, htest, if_pos (by omega)]
  | succ m ih =>
    rw [Nat.succ_add, lowBits, ih, lowBits, Nat.mul_comm, htest, if_neg (by omega), Nat.add_sub_cancel,
      List.cons_append]

/-- An advance takes in the bit at the top of `u` and leaves the bits below it one place higher. -/
theorem fcsAdvance_xor_eq_fcsBit (f u : Fcs) : fcsAdvance (f ^^^ u) = fcsBit f (u.getLsbD 10) ^^^ (u <<< 1) := by
  simp only [fcsAdvance_eq_xor_feedback, fcsBit_eq_xor_feedback, BitVec.shiftLeft_xor_distrib, BitVec.getLsbD_xor]
  ac_rfl

/-- Advancing `k` times takes in the top `k` bits of what was added to the state. -/
theorem foldl_fcsBit_lowBits {k : Nat} (hk : k ≤ 11) (v : Nat) (f : Fcs) :
    (lowBits v k).foldl fcsBit f = fcsAdvances k (f ^^^ (BitVec.ofNat 11 v <<< (11 - k))) := by
  induction k generalizing f with
  | zero => simp [lowBits, fcsAdvances]
  | succ k ih =>
    have hbit : (BitVec.ofNat 11 v <<< (11 - (k + 1))).getLsbD 10 = v.testBit k := by
      have hplace : 10 - (11 - (k + 1)) = k := by omega
      rw [BitVec.getLsbD_shiftLeft, hplace, BitVec.getLsbD_ofNat]
      simp [show k < 11 from hk]
    have hshift : BitVec.ofNat 11 v <<< (11 - (k + 1)) <<< 1 = BitVec.ofNat 11 v <<< (11 - k) := by
      rw [← BitVec.shiftLeft_add]
      congr 1
      omega
    rw [fcsAdvances, fcsAdvance_xor_eq_fcsBit, hbit, hshift, ← ih (by omega), lowBits, List.foldl_cons]

theorem fcsWord_eq_foldl_fcsBit (f : Fcs) (w : Word) : fcsWord f w = (lowBits w.toNat 11).foldl fcsBit f := by
  rw [foldl_fcsBit_lowBits (by decide), fcsWord, BitVec.ofNat_toNat, BitVec.setWidth_eq, Nat.sub_self,
    BitVec.shiftLeft_zero]

/-- The word loop is the bit loop over the bits of the words' value. -/
theorem foldl_fcsWord_eq_foldl_fcsBit (ws : List Word) (f : Fcs) :
    ws.foldl fcsWord f = (lowBits (wordsVal ws) (11 * ws.length)).foldl fcsBit f := by
  induction ws generalizing f with
  | nil => rfl
  | cons w ws ih =>
    have hpow : 2048 ^ ws.length = 2 ^ (11 * ws.length) := (Nat.pow_mul 2 11 _).symm
    have hlt := hpow ▸ wordsVal_lt ws
    rw [wordsVal_cons, hpow, List.length_cons, Nat.mul_succ, Nat.add_comm (11 * _), lowBits_add hlt,
      List.foldl_append, ← fcsWord_eq_foldl_fcsBit, ← ih, List.foldl_cons]

theorem calcfcs_eq_fcsSerial (num : Number) : calcfcs num = fcsSerial (numVal num) := by
  rw [calcfcs, foldl_fcsWord_eq_foldl_fcsBit, Vector.length_toList, fcsSerial_eq, numVal_eq_wordsVal]

/-- Settles O28: FCSCALC ends with the word loop's value (R173), which is the bit-serial form's. -/
theorem fcscalcResult : Obligations.FcscalcResult := ⟨by decide, fun s => ⟨rfl, calcfcs_eq_fcsSerial s.num⟩⟩

end Sys2Proof.Machine
end

section
/-! PROOFS. Text and the permutation (`43_permutation.md` R182 to R192): normalisation and the reading of symbols byte
by byte; the half-bars as one family, placed one to one on the character bits (R184), so that each direction of the
permutation says of every half-bar whether it is printed, and the two directions undo one another. -/

namespace Sys2Proof.Machine

open Sys2Proof.Claims

/-! Normalisation (R182). -/

theorem isWhitespace_eq_contains (b : Byte) :
    isWhitespace b = ([0x09, 0x0A, 0x0B, 0x0C, 0x0D, 0x20] : List Byte).contains b := by
  simp only [isWhitespace, List.contains_cons, List.contains_nil, Bool.or_assoc, Bool.or_false]

/-- The subtraction that raises a letter does not wrap. -/
theorem toUpper_eq (b : Byte) :
    toUpper b = if 0x61 ≤ b.toNat ∧ b.toNat ≤ 0x7A then BitVec.ofNat 8 (b.toNat - 0x20) else b :=
  if_ctx_congr .rfl (fun h => by bv_omega) fun _ => rfl

theorem norm_eq_map_filter (t : List Byte) : norm t = (t.filter fun b => !isWhitespace b).map toUpper := by
  induction t with
  | nil => rfl
  | cons b bs ih => cases h : isWhitespace b <;> simp [norm, h, ih]

/-! Symbols (R183). -/

theorem byteSymbol_eq_none {b : Byte} :
    byteSymbol b = none ↔ b ∉ ([0x54, 0x53, 0x41, 0x44, 0x46] : List Byte) := by
  simp only [byteSymbol, List.mem_cons, List.not_mem_nil, or_false]
  split_ifs with hT hA hD hF
  · exact iff_of_false nofun (not_not.mpr (hT.imp_right .inl))
  · exact iff_of_false nofun (not_not.mpr (by simp [hA]))
  · exact iff_of_false nofun (not_not.mpr (by simp [hD]))
  · exact iff_of_false nofun (not_not.mpr (by simp [hF]))
  · exact iff_of_true rfl (by tauto)

/-- A symbol is read from its own letter, T also from S. -/
theorem symbolByte_of_byteSymbol {b : Byte} {sy : Symbol} (h : byteSymbol b = some sy) :
    symbolByte sy = (if b = 0x53 then 0x54 else b) ∧ sy ≠ .x := by
  have hb : b ∈ ([0x54, 0x53, 0x41, 0x44, 0x46] : List Byte) := by
    by_contra hb
    rw [byteSymbol_eq_none.mpr hb] at h
    cases h
  fin_cases hb <;> cases h <;> decide

theorem symbolsOf_cons_eq_none {b : Byte} {bs : List Byte} :
    symbolsOf (b :: bs) = none ↔ byteSymbol b = none ∨ symbolsOf bs = none := by
  rw [symbolsOf]
  cases byteSymbol b <;> cases symbolsOf bs <;> simp

theorem symbolsOf_cons_eq_some {b : Byte} {bs : List Byte} {sy : List Symbol} :
    symbolsOf (b :: bs) = some sy ↔ ∃ s ss, byteSymbol b = some s ∧ symbolsOf bs = some ss ∧ s :: ss = sy := by
  rw [symbolsOf]
  cases byteSymbol b <;> cases symbolsOf bs <;> simp

theorem symbolsOf_eq_none {bs : List Byte} : symbolsOf bs = none ↔ ∃ b ∈ bs, byteSymbol b = none := by
  induction bs with
  | nil => simp [symbolsOf]
  | cons b bs ih => rw [symbolsOf_cons_eq_none, ih, List.exists_mem_cons_iff]

theorem symbolsOf_eq_some {bs : List Byte} {sy : List Symbol} (h : symbolsOf bs = some sy) :
    sy.map symbolByte = bs.map (fun b => if b = 0x53 then 0x54 else b) ∧ Symbol.x ∉ sy := by
  induction bs generalizing sy with
  | nil => cases h; simp
  | cons b bs ih =>
    obtain ⟨s, ss, hs, hss, rfl⟩ := symbolsOf_cons_eq_some.mp h
    obtain ⟨hletter, hx⟩ := symbolByte_of_byteSymbol hs
    obtain ⟨hletters, hxs⟩ := ih hss
    exact ⟨List.cons_eq_cons.mpr ⟨hletter, hletters⟩, List.not_mem_cons_of_ne_of_not_mem hx.symm hxs⟩

/-- Settles O30: R182's loop is a filter and a map; R183's fails at a byte without a symbol. -/
theorem textsReadAsSymbols : Obligations.TextsReadAsSymbols := by
  refine ⟨fun t => ?_, fun t => ?_, fun t sy => symbolsOf_eq_some⟩
  · simp only [norm_eq_map_filter, isWhitespace_eq_contains, ← toUpper_eq]
  · simp only [toSymbols, symbolsOf_eq_none, byteSymbol_eq_none]

/-! The half-bars (R181, R184). -/

/-- Settles O35: the rows of R181, computed. -/
theorem permutationTablesAreBijective : Obligations.PermutationTablesAreBijective := by
  unfold Obligations.PermutationTablesAreBijective
  decide +kernel

/-- The ascender (left) or the descender (right) of a bar. -/
abbrev HalfBar := Fin 65 ⊕ Fin 65

/-- The character and the bit of it that a half-bar drives (R181). -/
def drives : HalfBar → Fin 10 × Fin 13 :=
  Sum.elim (fun i => (permTable[i].ascChar, permTable[i].ascBit)) fun i => (permTable[i].descChar, permTable[i].descBit)

/-- Whether the symbol of its bar prints a half (R180). -/
def printed (sy : Candidate) : HalfBar → Bool := Sum.elim (fun i => asc sy[i]) fun i => desc sy[i]

/-- One bit of ten characters. -/
def bitAt (ch : Chars) (p : Fin 10 × Fin 13) : Bool := ch[p.1].getLsbD p.2

section
variable (sy : Candidate) (i : Fin 65)

@[simp] theorem drives_inl : drives (.inl i) = (permTable[i].ascChar, permTable[i].ascBit) := rfl

@[simp] theorem drives_inr : drives (.inr i) = (permTable[i].descChar, permTable[i].descBit) := rfl

@[simp] theorem printed_inl : printed sy (.inl i) = asc sy[i] := rfl

@[simp] theorem printed_inr : printed sy (.inr i) = desc sy[i] := rfl

end

theorem map_permRows {α : Type} (f : PermRow → α) : permRows.map f = List.ofFn fun i : Fin 65 => f permTable[i] :=
  (List.ofFn_getElem_eq_map permRows f).symm

/-- R184: the half-bars drive the character bits, one each. -/
theorem drives_bijective : Function.Bijective drives := by
  obtain ⟨hnodup, hall, -⟩ := permutationTablesAreBijective
  simp only [map_permRows] at hnodup hall
  obtain ⟨hasc, hdesc, hapart⟩ := List.nodup_append.mp hnodup
  refine ⟨(List.nodup_ofFn.mp hasc).sumElim (List.nodup_ofFn.mp hdesc) fun i j => ?_, fun ⟨n, b⟩ => ?_⟩
  · exact hapart _ (List.mem_ofFn.mpr ⟨i, rfl⟩) _ (List.mem_ofFn.mpr ⟨j, rfl⟩)
  · rcases List.mem_append.mp (hall n b) with h | h <;> obtain ⟨i, hi⟩ := List.mem_ofFn.mp h
    · exact ⟨.inl i, hi⟩
    · exact ⟨.inr i, hi⟩

theorem chars_ext {ch ch' : Chars} (h : ∀ p, bitAt ch p = bitAt ch' p) : ch = ch' :=
  Vector.ext fun n hn => BitVec.eq_of_getLsbD_eq fun b hb => h (⟨n, hn⟩, ⟨b, hb⟩)

/-! The two directions (R185, R186). -/

theorem bitAt_orBit (ch : Chars) (q p : Fin 10 × Fin 13) :
    bitAt (orBit ch q.1 q.2) p = (bitAt ch p || decide (q = p)) := by
  have hp : p.1 = q.1 ∧ p.2.val = q.2.val ↔ q = p := by
    rw [Prod.ext_iff, Fin.ext_iff (a := q.2), eq_comm, eq_comm (a := p.2.val)]
  rw [bitAt, getLsbD_orBit, ← Bool.decide_and, decide_eq_decide.mpr hp, bitAt]

/-- One half-bar of R185's loop. -/
def orHalf (sy : Candidate) (ch : Chars) (h : HalfBar) : Chars :=
  if printed sy h then orBit ch (drives h).1 (drives h).2 else ch

theorem orBar_eq (sy : Candidate) (ch : Chars) (i : Fin 65) :
    orBar sy ch i = orHalf sy (orHalf sy ch (.inl i)) (.inr i) := rfl

/-- The half-bar is printed and drives the bit. -/
def Sets (sy : Candidate) (p : Fin 10 × Fin 13) (h : HalfBar) : Prop := printed sy h = true ∧ drives h = p

theorem bitAt_orHalf (sy : Candidate) (ch : Chars) (h : HalfBar) (p : Fin 10 × Fin 13) :
    bitAt (orHalf sy ch h) p = true ↔ bitAt ch p = true ∨ Sets sy p h := by
  cases hprinted : printed sy h <;> simp [orHalf, Sets, hprinted, bitAt_orBit]

theorem bitAt_foldl_orBar (sy : Candidate) (l : List (Fin 65)) (ch : Chars) (p : Fin 10 × Fin 13) :
    bitAt (l.foldl (orBar sy) ch) p = true
      ↔ bitAt ch p = true ∨ ∃ i ∈ l, Sets sy p (.inl i) ∨ Sets sy p (.inr i) := by
  induction l generalizing ch with
  | nil => simp
  | cons i l ih =>
    rw [List.foldl_cons, ih, orBar_eq, bitAt_orHalf, bitAt_orHalf, List.exists_mem_cons_iff,
      or_assoc, or_assoc, or_assoc]

theorem bitAt_zeros (p : Fin 10 × Fin 13) : bitAt (Vector.replicate 10 0) p = false := by
  simp [bitAt]

/-- R185: a bit is set iff a printed half-bar drives it. -/
theorem bitAt_symsToChars (sy : Candidate) (p : Fin 10 × Fin 13) :
    bitAt (symsToChars sy) p = true ↔ ∃ i : Fin 65, Sets sy p (.inl i) ∨ Sets sy p (.inr i) := by
  rw [symsToChars, bitAt_foldl_orBar, bitAt_zeros]
  simp only [List.mem_finRange, true_and, Bool.false_eq_true, false_or]

/-- No other half-bar drives the bit of this one. -/
theorem bitAt_symsToChars_drives (sy : Candidate) (h : HalfBar) : bitAt (symsToChars sy) (drives h) = printed sy h := by
  rw [Bool.eq_iff_iff, bitAt_symsToChars, exists_or, ← Sum.exists]
  simp only [Sets, drives_bijective.injective.eq_iff, exists_eq_right]

theorem charsToSyms_getElem (ch : Chars) (i : Fin 65) :
    (charsToSyms ch)[i] = symbolOfHalves (bitAt ch (drives (.inl i))) (bitAt ch (drives (.inr i))) :=
  Vector.getElem_ofFn _

/-- R186: a half is printed iff the bit it drives is set. -/
theorem printed_charsToSyms (ch : Chars) (h : HalfBar) : printed (charsToSyms ch) h = bitAt ch (drives h) := by
  cases h with
  | inl i => rw [printed_inl, charsToSyms_getElem, asc_symbolOfHalves]
  | inr i => rw [printed_inr, charsToSyms_getElem, desc_symbolOfHalves]

/-- R180: a placeholder has the halves of a T. -/
theorem symbolOfHalves_asc_desc_eq (sy : Symbol) :
    symbolOfHalves (asc sy) (desc sy) = if sy = .x then .t else sy := by
  cases sy <;> rfl

theorem symsToChars_charsToSyms (ch : Chars) : symsToChars (charsToSyms ch) = ch := by
  refine chars_ext fun p => ?_
  obtain ⟨h, rfl⟩ := drives_bijective.surjective p
  rw [bitAt_symsToChars_drives, printed_charsToSyms]

theorem charsToSyms_symsToChars (sy : Candidate) :
    charsToSyms (symsToChars sy) = Vector.ofFn fun i => if sy[i] = .x then .t else sy[i] := by
  refine Vector.ext fun i hi => ?_
  calc (charsToSyms (symsToChars sy))[i]
      = symbolOfHalves (asc sy[i]) (desc sy[i]) := by
        refine (charsToSyms_getElem _ ⟨i, hi⟩).trans ?_
        rw [bitAt_symsToChars_drives, bitAt_symsToChars_drives]
        rfl
    _ = _ := by rw [symbolOfHalves_asc_desc_eq, Vector.getElem_ofFn]; rfl

/-- Settles O34: both directions, half-bar by half-bar (R191). -/
theorem permutationRoundTrip : Obligations.PermutationRoundTrip :=
  ⟨symsToChars_charsToSyms, charsToSyms_symsToChars⟩

/-! The commands (R187 to R190). -/

theorem exec_permfwd (s : State) : exec .permfwd s = .next (complete { s with ch := symsToChars s.cand }) := rfl

theorem exec_perminv (s : State) : exec .perminv s = .next (complete (putSymbols (charsToSyms s.ch) s)) := rfl

theorem exec_flipad (s : State) : exec .flipad s = .next (complete { s with cand := flipCandidate s.cand }) := rfl

section
variable {s : State}

theorem exec_loadtxt_of_none (h : toSymbols (textOf s) = none) :
    exec .loadtxt s = .next (raise .formatSymbol .none s) := by
  show execLoadtxt s = _
  rw [execLoadtxt, h]

theorem exec_loadtxt_of_some {sy : List Symbol} (h : toSymbols (textOf s) = some sy) :
    exec .loadtxt s = if sy.length = 65 then .next (complete { s with cand := toCandidate sy })
      else .next (raise .formatLength .none s) := by
  show execLoadtxt s = _
  rw [execLoadtxt, h]

end

/-- A candidate made of 65 symbols holds them. -/
theorem toList_toCandidate {sy : List Symbol} (h : sy.length = 65) : (toCandidate sy).toList = sy := by
  rw [toCandidate, toList_vecFrom _ _ _ h]

/-- Settles O31: the three outcomes of R187. -/
theorem loadtxtResult : Obligations.LoadtxtResult := by
  refine ⟨by decide, fun s => ⟨exec_loadtxt_of_none, fun sy hsy hlen => ?length, fun sy hsy hlen => ?success⟩⟩
  case length => exact (exec_loadtxt_of_some hsy).trans (if_neg hlen)
  case success =>
    exact ⟨toCandidate sy, toList_toCandidate hlen, (exec_loadtxt_of_some hsy).trans (if_pos hlen)⟩

/-- Settles O32: R185's loop, a bit at a time. -/
theorem permfwdResult : Obligations.PermfwdResult := by
  refine ⟨by decide, fun s => ⟨_, exec_permfwd s, rfl, fun n b => ?_⟩⟩
  exact (bitAt_symsToChars s.cand (n, b)).trans (by simp [Sets])

/-- The letters of the bars go in front; the text beyond them stays (R189). -/
theorem getElem_writeFront_symsToText (v : Vector Byte 128) (sy : Candidate) (i : Fin 128) :
    (writeFront v (symsToText sy))[i] = if h : i.val < 65 then symbolByte (sy[i.val]'h) else v[i] := by
  have hlen := length_symsToText sy
  rw [Fin.getElem_fin]
  split
  next h => simp [getElem_writeFront, symsToText, List.getD_eq_getElem?_getD, h]
  next h => exact getElem_writeFront_of_le _ _ _ _ (by omega)

/-- Settles O33: each bar is printed as its bits say, and never as a placeholder (R186). -/
theorem perminvResult : Obligations.PerminvResult := by
  refine ⟨by decide, fun s => ⟨_, exec_perminv s, rfl, ?_⟩⟩
  rw [complete_cand, putSymbols_cand, complete_txt, putSymbols_txt]
  refine ⟨fun i => ⟨?asc, ?desc, ?printable⟩, getElem_writeFront_symsToText s.txt _⟩
  case asc => simpa [bitAt] using printed_charsToSyms s.ch (.inl i)
  case desc => simpa [bitAt] using printed_charsToSyms s.ch (.inr i)
  case printable => exact (charsToSyms_getElem s.ch i).trans_ne (symbolOfHalves_ne_x _ _)

theorem getElem_flipCandidate (sy : Candidate) (i : Fin 65) : (flipCandidate sy)[i] = flipSymbol sy[i] :=
  Vector.getElem_ofFn _

theorem flipCandidate_flipCandidate (sy : Candidate) : flipCandidate (flipCandidate sy) = sy := by
  refine Vector.ext fun i hi => ?_
  have h (c : Candidate) := getElem_flipCandidate c ⟨i, hi⟩
  exact (h _).trans ((congrArg flipSymbol (h sy)).trans (flipSymbol_flipSymbol _))

theorem flipSymbol_eq (sy : Symbol) : flipSymbol sy = if sy = .a then .d else if sy = .d then .a else sy := by
  cases sy <;> rfl

/-- Settles O36: FLIPAD flips every symbol in its place, and a flip is its own inverse (R192). -/
theorem flipadResult : Obligations.FlipadResult := by
  refine ⟨by decide, fun s => ⟨_, _, exec_flipad s, rfl, fun i => ?_, exec_flipad _, ?_⟩⟩
  · exact (getElem_flipCandidate s.cand i).trans (flipSymbol_eq _)
  · exact flipCandidate_flipCandidate s.cand

end Sys2Proof.Machine
end

section
/-! PROOFS. The mixed radix of the codeword space (`44_codeword.md` R200 to R203): the ten digits of a number, read from
the most significant one down, in plain arithmetic and on the ten words. -/

namespace Sys2Proof.Machine

open Sys2Proof.Claims

/-! A digit string. -/

/-- The value of the digits `ds` in base `d`, most significant first, behind a leading value. -/
def horner (d lead : Nat) (ds : List Nat) : Nat := ds.foldl (fun v c => v * d + c) lead

theorem horner_cons (d lead c : Nat) (ds : List Nat) : horner d lead (c :: ds) = horner d (lead * d + c) ds := rfl

theorem horner_lt {d : Nat} {ds : List Nat} (hds : ∀ c ∈ ds, c < d) (lead : Nat) :
    horner d lead ds < (lead + 1) * d ^ ds.length := by
  induction ds generalizing lead with
  | nil => simp [horner]
  | cons c ds ih =>
    obtain ⟨hc, hds⟩ := List.forall_mem_cons.mp hds
    calc horner d (lead * d + c) ds
        < (lead * d + c + 1) * d ^ ds.length := ih hds _
      _ ≤ ((lead + 1) * d) * d ^ ds.length := Nat.mul_le_mul_right _ (by rw [Nat.succ_mul]; omega)
      _ = (lead + 1) * d ^ (c :: ds).length := by rw [List.length_cons, Nat.pow_succ', Nat.mul_assoc]

/-- A number and the digit behind it are told apart in their base. -/
theorem eq_of_mul_add_eq {d v v' c c' : Nat} (hc : c < d) (hc' : c' < d) (h : v * d + c = v' * d + c') :
    v = v' ∧ c = c' := by
  have hd : 0 < d := Nat.zero_lt_of_lt hc
  constructor
  · simpa [Nat.add_div_of_dvd_right, hd, Nat.div_eq_of_lt, hc, hc'] using congrArg (· / d) h
  · simpa [Nat.mul_add_mod', Nat.mod_eq_of_lt, hc, hc'] using congrArg (· % d) h

/-- As many digits with the same value are the same digits. -/
theorem horner_inj {d : Nat} {ds es : List Nat} (hlen : ds.length = es.length) (hds : ∀ c ∈ ds, c < d)
    (hes : ∀ c ∈ es, c < d) {v w : Nat} (h : horner d v ds = horner d w es) : v = w ∧ ds = es := by
  induction ds generalizing es v w with
  | nil => cases List.length_eq_zero_iff.mp hlen.symm; exact ⟨h, rfl⟩
  | cons c ds ih =>
    cases es with
    | nil => cases hlen
    | cons e es =>
      obtain ⟨hc, hds⟩ := List.forall_mem_cons.mp hds
      obtain ⟨he, hes⟩ := List.forall_mem_cons.mp hes
      obtain ⟨hlead, rfl⟩ := ih (Nat.succ.inj hlen) hds hes h
      obtain ⟨rfl, rfl⟩ := eq_of_mul_add_eq hc he hlead
      exact ⟨rfl, rfl⟩

/-! Digits on the ten words (R201, R203). -/

theorem mpMulAdd_numOf (v d c : Nat) : (mpMulAdd (numOf v) d c).1 = numOf (v * d + c) := by
  refine eq_of_numVal_eq ?_
  rw [(mpMulAdd_eq _ _ _).1, numVal_numOf, numVal_numOf, numVal_numOf, Nat.mod_mod]
  exact ((Nat.mod_modEq v _).mul_right d).add_right c

/-- R203's loop leaves the value of its digits. -/
theorem foldl_mpMulAdd (d v : Nat) (ds : List Nat) :
    ds.foldl (fun num c => (mpMulAdd num d c).1) (numOf v) = numOf (horner d v ds) := by
  induction ds generalizing v with
  | nil => rfl
  | cons c ds ih => rw [List.foldl_cons, mpMulAdd_numOf, ih, horner_cons]

/-- R201's loop takes digits that make up the number it began with. -/
theorem horner_takeDigits {d : Nat} (hd : 0 < d) (k : Nat) (num : Number) (acc : List Nat) :
    horner d (numVal (takeDigits d k num acc).1) (takeDigits d k num acc).2 = horner d (numVal num) acc := by
  induction k generalizing num acc with
  | zero => rfl
  | succ k ih =>
    obtain ⟨hq, hr⟩ := mpDivmod_spec num d hd
    refine (ih (mpDivmod num d).1 ((mpDivmod num d).2 :: acc)).trans ?_
    rw [horner_cons, hq, hr, Nat.div_add_mod']

/-! The codeword space (R200). -/

/-- `v` is written with the digit `top` of radix 659, the eight digits `mid` of radix 1365 and the digit `last` of
radix 636. -/
structure MixedRadix (v top : Nat) (mid : List Nat) (last : Nat) : Prop where
  value : v = horner 1365 top mid * 636 + last
  top_le : top ≤ 658
  length_mid : mid.length = 8
  mid_lt : ∀ c ∈ mid, c < 1365
  last_lt : last < 636

theorem MixedRadix.lt {v top last : Nat} {mid : List Nat} (h : MixedRadix v top mid last) : v < codewordSpace := by
  have hhorner := horner_lt h.mid_lt top
  have htop := h.top_le
  have hlast := h.last_lt
  have hv := h.value
  rw [h.length_mid] at hhorner
  rw [codewordSpace]
  omega

theorem MixedRadix.unique {v top top' last last' : Nat} {mid mid' : List Nat} (h : MixedRadix v top mid last)
    (h' : MixedRadix v top' mid' last') : top = top' ∧ mid = mid' ∧ last = last' := by
  obtain ⟨hhorner, hlast⟩ := eq_of_mul_add_eq h.last_lt h'.last_lt (h.value.symm.trans h'.value)
  obtain ⟨htop, hmid⟩ := horner_inj (h.length_mid.trans h'.length_mid.symm) h.mid_lt h'.mid_lt hhorner
  exact ⟨htop, hmid, hlast⟩

/-- R201's digits of codewords 1 to 8, behind the quotient they leave. -/
def midDigits (num : Number) : Number × List Nat := takeDigits 1365 8 (mpDivmod num 636).1 []

theorem numVal_midDigits (num : Number) : numVal (midDigits num).1 = numVal num / (636 * 1365 ^ 8) := by
  rw [midDigits, (takeDigits_spec _ (by decide) _ _ _).1, (mpDivmod_spec num 636 (by decide)).1,
    Nat.div_div_eq_div_mul]

theorem midDigits_eq_map (num : Number) :
    (midDigits num).2 = (List.range 8).map fun j => numVal num / (636 * 1365 ^ (7 - j)) % 1365 := by
  rw [midDigits, (takeDigits_spec _ (by decide) _ _ _).2, (mpDivmod_spec num 636 (by decide)).1, List.append_nil]
  simp only [Nat.div_div_eq_div_mul, Nat.add_one_sub_one]

/-- The last quotient is a digit exactly for the numbers of the codeword space. -/
theorem numVal_midDigits_le (num : Number) : numVal (midDigits num).1 ≤ 658 ↔ numVal num < codewordSpace := by
  rw [numVal_midDigits, codewordSpace]
  omega

theorem mixedRadix_midDigits {num : Number} (h : numVal num < codewordSpace) :
    MixedRadix (numVal num) (numVal (midDigits num).1) (midDigits num).2 (mpDivmod num 636).2 where
  value := by
    have hhorner := horner_takeDigits (d := 1365) (by decide) 8 (mpDivmod num 636).1 []
    obtain ⟨hq, hr⟩ := mpDivmod_spec num 636 (by decide)
    rw [midDigits, hhorner, horner, List.foldl_nil, hq, hr, Nat.div_add_mod']
  top_le := (numVal_midDigits_le num).mpr h
  length_mid := by simp [midDigits_eq_map]
  mid_lt := fun _ hc => takeDigits_lt (by decide) 8 _ hc
  last_lt := (mpDivmod_spec num 636 (by decide)).2.trans_lt (Nat.mod_lt _ (by decide))

end Sys2Proof.Machine
end

section
/-! PROOFS. The codeword conversion (`44_codeword.md` R200 to R205): what `cw_encode` and `cw_decode` do to the
digits of a number, the two commands, and that the conversions undo one another. -/

namespace Sys2Proof.Machine

open Sys2Proof.Claims

/-! The offset of codeword 0 (R201, R203). -/

/-- Codeword 0 without the offset: the digit of radix 659 (R203). -/
def withoutOffset (first : Nat) : Nat := if 658 < first then first - 659 else first

theorem withoutOffset_le {first : Nat} (h : first ≤ 1317) : withoutOffset first ≤ 658 := by
  rw [withoutOffset]
  split <;> omega

/-- R203 takes off the offset that R201 put on. -/
theorem withoutOffset_offset {top : Nat} (h : top ≤ 658) (b : Bool) :
    withoutOffset (if b then top + 659 else top) = top := by
  cases b with
  | false => exact if_neg (Nat.not_lt_of_le h)
  | true =>
    show withoutOffset (top + 659) = top
    rw [withoutOffset, if_pos (by omega), Nat.add_sub_cancel]

/-- R201 puts back the offset that R203 took off. -/
theorem offset_withoutOffset (first : Nat) :
    (if decide (658 < first) then withoutOffset first + 659 else withoutOffset first) = first := by
  by_cases h : 658 < first
  · simp only [withoutOffset, h, decide_true, if_true]
    omega
  · simp [withoutOffset, h]

/-! The digits in the ten codeword registers. -/

/-- The registers hold these values: codeword 0, codewords 1 to 8, codeword 9. -/
structure HoldsDigits (cw : Codewords) (first : Nat) (mid : List Nat) (last : Nat) : Prop where
  length_mid : mid.length = 8
  toNats : cw.toList.map BitVec.toNat = first :: mid ++ [last]

theorem holdsDigits_ofFn (k : Fin 10 → Index) :
    HoldsDigits (Vector.ofFn k) (k 0).toNat
      [(k 1).toNat, (k 2).toNat, (k 3).toNat, (k 4).toNat, (k 5).toNat, (k 6).toNat, (k 7).toNat, (k 8).toNat]
      (k 9).toNat :=
  ⟨rfl, rfl⟩

theorem exists_holdsDigits (cw : Codewords) : ∃ first mid last, HoldsDigits cw first mid last := by
  have hcw : Vector.ofFn (fun n : Fin 10 => cw[n]) = cw := Vector.ofFn_getElem
  exact ⟨_, _, _, hcw ▸ holdsDigits_ofFn fun n => cw[n]⟩

/-- Ten numbers of at most 11 bits are held as they are. -/
theorem holdsDigits_vecFrom {first last : Nat} {mid : List Nat} (hlen : mid.length = 8)
    (hfirst : first < 2048) (hmid : ∀ c ∈ mid, c < 2048) (hlast : last < 2048) :
    HoldsDigits (vecFrom 10 0 ((first :: mid ++ [last]).map (BitVec.ofNat 11))) first mid last where
  length_mid := hlen
  toNats := by
    rw [toList_vecFrom _ _ _ (by simp [hlen]), List.map_map]
    have hlt : ∀ x ∈ first :: mid ++ [last], x < 2048 := by
      simpa [or_imp, forall_and] using ⟨hfirst, hmid, hlast⟩
    exact (List.map_congr_left fun x hx => (toNat_ofNat_word x).trans (Nat.mod_eq_of_lt (hlt x hx))).trans
      (List.map_id _)

section
variable {cw : Codewords} {first last : Nat} {mid : List Nat} (h : HoldsDigits cw first mid last)
include h

theorem HoldsDigits.getElem? (n : Fin 10) : some cw[n].toNat = (first :: mid ++ [last])[n.val]? := by
  rw [← h.toNats]
  simp

theorem HoldsDigits.first_eq : cw[0].toNat = first := Option.some.inj (h.getElem? 0)

theorem HoldsDigits.mid_eq (n : Fin 8) : some cw[n.val + 1].toNat = mid[n.val]? := by
  refine (h.getElem? ⟨n.val + 1, by omega⟩).trans ?_
  rw [List.cons_append, List.getElem?_cons_succ, List.getElem?_append_left (h.length_mid.symm ▸ n.isLt)]

theorem HoldsDigits.last_eq : cw[9].toNat = last := by
  refine Option.some.inj ((h.getElem? 9).trans ?_)
  rw [List.getElem?_append_right (by simp [h.length_mid])]
  simp [h.length_mid]

theorem HoldsDigits.mid_lt {b : Nat} (hb : ∀ n : Fin 10, cw[n].toNat < b) : ∀ c ∈ mid, c < b := by
  intro c hc
  have hmem : c ∈ cw.toList.map BitVec.toNat := by simp [h.toNats, hc]
  obtain ⟨w, hw, rfl⟩ := List.mem_map.mp hmem
  obtain ⟨n, hn, rfl⟩ := List.mem_iff_getElem.mp hw
  exact hb ⟨n, by simpa using hn⟩

theorem HoldsDigits.ext {cw' : Codewords} (h' : HoldsDigits cw' first mid last) : cw = cw' :=
  Vector.toList_inj.mp (List.map_injective_iff.mpr BitVec.toNat_injective (h.toNats.trans h'.toNats.symm))

/-- R203's number is the value of the digits: codeword 0 without its offset, codeword 9 halved. -/
theorem HoldsDigits.reassemble_eq :
    reassemble cw = numOf (horner 1365 (withoutOffset first) mid * 636 + last / 2) := by
  have hmid : ((cw.toList.drop 1).take 8).map BitVec.toNat = mid := by
    rw [List.map_take, List.map_drop, h.toNats, List.cons_append, List.drop_one, List.tail_cons, ← h.length_mid,
      List.take_left]
  have hfold := foldl_mpMulAdd 1365 (withoutOffset first) (((cw.toList.drop 1).take 8).map BitVec.toNat)
  rw [List.foldl_map, hmid] at hfold
  rw [reassemble, h.first_eq, h.last_eq, ← mpMulAdd_numOf, ← hfold]
  rfl

/-- R203's checks of codewords 0 and 9 are those of the digits of radix 659 and 636. -/
theorem HoldsDigits.mixedRadix (hfirst : first ≤ 1317) (hlast : last ≤ 1270) (hcw : ∀ n : Fin 10, cw[n].toNat ≤ 1364) :
    MixedRadix (numVal (reassemble cw)) (withoutOffset first) mid (last / 2) := by
  have hradix : MixedRadix (horner 1365 (withoutOffset first) mid * 636 + last / 2)
      (withoutOffset first) mid (last / 2) :=
    { value := rfl
      top_le := withoutOffset_le hfirst
      length_mid := h.length_mid
      mid_lt := h.mid_lt fun n => Nat.lt_succ_of_le (hcw n)
      last_lt := by omega }
  rwa [h.reassemble_eq, numVal_numOf, Nat.mod_eq_of_lt (hradix.lt.trans (by decide))]

end

/-! `cw_encode` (R201). -/

/-- `r` holds the digits of `num`: codeword 0 with the offset that its FCS selects, codeword 9 doubled. -/
structure Encodes (num : Number) (r : CwEncoded) : Prop where
  fcs_eq : r.fcs = calcfcs num
  rest_eq : r.rest = (midDigits num).1
  digits : HoldsDigits r.cw (if r.fcs.getLsbD 10 then numVal r.rest + 659 else numVal r.rest) (midDigits num).2
    ((mpDivmod num 636).2 * 2)

theorem cwEncode_of_le {num : Number} (h : codewordSpace ≤ numVal num) (t : List Assignment) : cwEncode t num = none :=
  if_pos (Nat.lt_of_not_le fun hle => Nat.not_lt_of_le h ((numVal_midDigits_le num).mp hle))

theorem exists_cwEncode {num : Number} (h : numVal num < codewordSpace) (t : List Assignment) :
    ∃ r, cwEncode t num = some r ∧ Encodes num r := by
  have hradix := mixedRadix_midDigits h
  refine ⟨_, if_neg (Nat.not_lt_of_le hradix.top_le), rfl, rfl, holdsDigits_vecFrom hradix.length_mid ?_ ?_ ?_⟩
  · have htop := hradix.top_le
    change (if (calcfcs num).getLsbD 10 then numVal (midDigits num).1 + 659 else numVal (midDigits num).1) < 2048
    split <;> omega
  · exact fun c hc => (hradix.mid_lt c hc).trans (by decide)
  · have hlast := hradix.last_lt
    change (mpDivmod num 636).2 * 2 < 2048
    omega

section
variable {num : Number} {r : CwEncoded} (h : Encodes num r) (hlt : numVal num < codewordSpace)
include h hlt

theorem Encodes.rest_le : numVal r.rest ≤ 658 := h.rest_eq ▸ (numVal_midDigits_le num).mpr hlt

/-- R203 takes off the offset where R201 put it on. -/
theorem Encodes.lt_first_iff : 658 < r.cw[0].toNat ↔ r.fcs.getLsbD 10 = true := by
  have hrest := h.rest_le hlt
  rw [h.digits.first_eq]
  split
  next hbit => exact iff_of_true (by omega) hbit
  next hbit => exact iff_of_false (by omega) hbit

theorem Encodes.first_le : r.cw[0].toNat ≤ 1317 := by
  have hrest := h.rest_le hlt
  rw [h.digits.first_eq]
  split <;> omega

omit hlt in
theorem Encodes.last_even : r.cw[9].toNat % 2 = 0 := by
  rw [h.digits.last_eq, Nat.mul_mod_left]

theorem Encodes.last_le : r.cw[9].toNat ≤ 1270 := by
  have hlast := (mixedRadix_midDigits hlt).last_lt
  rw [h.digits.last_eq]
  omega

/-- The number comes back from its digits. -/
theorem Encodes.reassemble_eq : reassemble r.cw = num := by
  rw [h.digits.reassemble_eq, withoutOffset_offset (h.rest_le hlt), h.rest_eq, Nat.mul_div_cancel _ (by decide),
    ← (mixedRadix_midDigits hlt).value, numOf_numVal]

end

/-! `cw_decode` (R203). -/

/-- Bit 10 of the received FCS is the offset (R33, R203). -/
theorem getLsbD_receivedFcs_offset (t : List Assignment) (ch : Chars) (high : Bool) :
    (receivedFcs t ch high).getLsbD 10 = high := by
  rw [receivedFcs, getLsbD_foldl_setBit (fun m : Fin 10 => fctRead t ch[m]) fcsBitOfChar _ _ (by decide)]
  have hchars : ((List.finRange 10).any fun m => fctRead t ch[m] && decide (fcsBitOfChar m = 10)) = false := by
    simp [fcsBitOfChar, fun m : Fin 10 => m.isLt.ne]
  rw [hchars, Bool.or_false]
  cases high <;> decide

/-- The received FCS is known by what FCT and codeword 0 say. -/
theorem receivedFcs_eq {t : List Assignment} {ch : Chars} {high : Bool} {f : Fcs}
    (hchars : ∀ n : Fin 10, fctRead t ch[n] = f.getLsbD n) (hoffset : high = f.getLsbD 10) :
    receivedFcs t ch high = f := by
  refine BitVec.eq_of_getLsbD_eq fun i hi => ?_
  rcases Nat.lt_succ_iff_lt_or_eq.mp hi with hi | rfl
  · exact (getLsbD_receivedFcs t ch high ⟨i, hi⟩).trans (hchars ⟨i, hi⟩)
  · exact (getLsbD_receivedFcs_offset t ch high).trans hoffset

theorem cwDecode_of_miss {t : List Assignment} {ch : Chars} (h : ∃ n : Fin 10, decRead t ch[n] = none) :
    cwDecode t ch = .error .lookup := by
  obtain ⟨n, hn⟩ := h
  refine if_pos fun hmiss => ?_
  have hsome := (missCount_eq_zero t ch).mp hmiss ch[n] (by simp)
  exact absurd hsome (by simp [hn, -Fin.getElem_fin])

/-- Behind the lookups, `cw_decode` is a function of the raw indices and FCT. -/
theorem cwDecode_of_hits {t : List Assignment} {ch : Chars} {k : Fin 10 → Index}
    (h : ∀ n : Fin 10, decRead t ch[n] = some (k n)) :
    cwDecode t ch =
      if 1317 < (k 0).toNat ∨ 1270 < (k 9).toNat then .error .range
      else if (k 9).toNat % 2 = 1 then .error .odd
      else if calcfcs (reassemble (Vector.ofFn k)) = receivedFcs t ch (658 < (k 0).toNat) then
        .ok { cw := Vector.ofFn k
              fcs := receivedFcs t ch (658 < (k 0).toNat)
              num := reassemble (Vector.ofFn k) }
      else .error .fcs := by
  have hmiss : missCount t ch = 0 := by
    refine (missCount_eq_zero t ch).mpr fun p hp => ?_
    obtain ⟨n, hn, rfl⟩ := List.mem_iff_getElem.mp hp
    exact Option.isSome_iff_exists.mpr ⟨_, h ⟨n, by simpa using hn⟩⟩
  have hcw : lookupAll t ch = Vector.ofFn k := congrArg Vector.ofFn (funext fun n => by rw [h n, Option.getD_some])
  have hfirst : (Vector.ofFn k)[0] = k 0 := Vector.getElem_ofFn _
  have hlast : (Vector.ofFn k)[9] = k 9 := Vector.getElem_ofFn _
  have hodd : (k 9).getLsbD 0 = decide ((k 9).toNat % 2 = 1) := Nat.testBit_zero _
  refine (if_neg (not_not.mpr hmiss)).trans ?_
  simp only [hcw, hfirst, hlast, hodd, decide_eq_true_eq]

/-- Settles O39: the lookups, then the checks of the raw indices, then the digits and the two frame check sequences. -/
theorem cwdecodeChecksInOrder : Obligations.CwdecodeChecksInOrder := by
  refine fun t ch k => ⟨cwDecode_of_miss, fun hits => ?_⟩
  rw [cwDecode_of_hits hits]
  refine ⟨fun hrange => if_pos hrange, fun hfirst hlast hodd => ?odd, fun hfirst hlast heven hk => ?number⟩
  all_goals have hrange : ¬ (1317 < (k 0).toNat ∨ 1270 < (k 9).toNat) := by omega
  case odd => rw [if_neg hrange, if_pos hodd]
  case number =>
    have hradix := (holdsDigits_ofFn k).mixedRadix hfirst hlast fun n => by
      rw [Fin.getElem_fin, Vector.getElem_ofFn]
      exact hk n
    refine ⟨_, reassemble (Vector.ofFn k), getLsbD_receivedFcs t ch _, getLsbD_receivedFcs_offset t ch _,
      hradix.value, ?_⟩
    rw [if_neg hrange, if_neg (by omega)]

/-! The conversions undo one another (R205). -/

/-- DEC and FCT take apart a pattern of ENC and its polarity (R127). -/
theorem lookup_encRead {k : Index} (hk : k.toNat ≤ 1364) (b : Bool) :
    decRead builtTables (encRead builtTables k ^^^ if b then 8191 else 0) = some k
      ∧ fctRead builtTables (encRead builtTables k ^^^ if b then 8191 else 0) = b := by
  obtain ⟨a, ha, hindex⟩ := exists_assignment_of_index (Nat.lt_succ_of_le hk)
  have hk : k = a.index := by rw [hindex, BitVec.ofNat_toNat, BitVec.setWidth_eq]
  obtain ⟨hdec, hdec', hfct, hfct'⟩ := lookup_of_mem ha
  rw [hk, encRead_index ha]
  cases b with
  | false => simpa using ⟨hdec, hfct⟩
  | true => exact ⟨hdec', hfct'⟩

theorem cwDecode_of_cwEncode {num : Number} {r : CwEncoded} (h : cwEncode builtTables num = some r)
    (hr : Encodes num r) (hlt : numVal num < codewordSpace) :
    cwDecode builtTables r.ch = .ok { cw := r.cw, fcs := r.fcs, num := num } := by
  have hlookup (n : Fin 10) := cwEncode_ch h n ▸ lookup_encRead (cwEncode_cw_le h n) (r.fcs.getLsbD n)
  have hcw : Vector.ofFn (fun n : Fin 10 => r.cw[n]) = r.cw := Vector.ofFn_getElem
  have hoffset : decide (658 < r.cw[(0 : Fin 10)].toNat) = r.fcs.getLsbD 10 := by
    rw [Bool.eq_iff_iff, decide_eq_true_iff]
    exact hr.lt_first_iff hlt
  have hfcs := receivedFcs_eq (fun n => (hlookup n).2) hoffset
  have hfirst : r.cw[(0 : Fin 10)].toNat ≤ 1317 := hr.first_le hlt
  have hlast : r.cw[(9 : Fin 10)].toNat ≤ 1270 := hr.last_le hlt
  have heven : r.cw[(9 : Fin 10)].toNat % 2 = 0 := hr.last_even
  rw [cwDecode_of_hits fun n => (hlookup n).1, hcw, hr.reassemble_eq hlt, hfcs, if_neg (by omega), if_neg (by omega),
    if_pos hr.fcs_eq.symm]

/-- A success of `cw_decode` has the digits that `cw_encode` takes out of its number, and the characters that go with
them. -/
theorem exists_cwEncode_of_cwDecode {ch : Chars} {d : CwDecoded} (h : cwDecode builtTables ch = .ok d) :
    ∃ r, cwEncode builtTables d.num = some r ∧ r.ch = ch := by
  obtain ⟨-, -, hfirst, hlast, heven, hfcs, hnum, hcalc⟩ := cwDecode_ok _ _ _ h
  obtain ⟨first, mid, last, hdigits⟩ := exists_holdsDigits d.cw
  rw [hdigits.first_eq] at hfirst hfcs
  rw [hdigits.last_eq] at hlast
  have hradix := hdigits.mixedRadix hfirst hlast (cwDecode_cw_le h)
  rw [← hnum] at hradix
  obtain ⟨r, hr, henc⟩ := exists_cwEncode hradix.lt builtTables
  obtain ⟨htop, hmid, hhalf⟩ := (mixedRadix_midDigits hradix.lt).unique hradix
  have hrfcs : r.fcs = d.fcs := henc.fcs_eq.trans hcalc
  have hcw : r.cw = d.cw := by
    have hoffset : d.fcs.getLsbD 10 = decide (658 < first) := by rw [hfcs, getLsbD_receivedFcs_offset]
    have hfirst : (if r.fcs.getLsbD 10 then numVal r.rest + 659 else numVal r.rest) = first := by
      rw [hrfcs, hoffset, henc.rest_eq, htop, offset_withoutOffset]
    have hlast : (mpDivmod d.num 636).2 * 2 = last := by
      have hbit : (d.cw[9]).getLsbD 0 = decide (last % 2 = 1) := hdigits.last_eq ▸ Nat.testBit_zero _
      rw [hbit, decide_eq_false_iff_not] at heven
      omega
    have hrdigits := henc.digits
    rw [hfirst, hmid, hlast] at hrdigits
    exact hrdigits.ext hdigits
  refine ⟨r, hr, Vector.ext fun n hn => ?_⟩
  have hmatch := cwEncode_ch hr ⟨n, hn⟩
  rw [hcw, hrfcs, cwDecode_match h] at hmatch
  exact hmatch.symm

/-- Settles O40: both directions of R205. -/
theorem codewordRoundTrip : Obligations.CodewordRoundTrip := by
  refine ⟨fun num hlt => ?_, fun ch d => exists_cwEncode_of_cwDecode⟩
  obtain ⟨r, hr, henc⟩ := exists_cwEncode hlt builtTables
  exact ⟨r, hr, cwDecode_of_cwEncode hr henc hlt, henc.last_even, henc.last_le hlt, henc.first_le hlt⟩

/-! The commands (R202, R204). -/

section
variable {s : State} (hs : s.TablesOk)
include hs

theorem exec_cwenc_of_none (h : cwEncode builtTables s.num = none) :
    exec .cwenc s = .next (ended .operand .none (built s)) := by
  show execCwenc s = _
  simp only [execCwenc, ensureTables_of_tablesOk s hs, h]
  rfl

theorem exec_cwenc_of_some {r : CwEncoded} (h : cwEncode builtTables s.num = some r) :
    exec .cwenc s
      = .next (ended .ok .none { built s with cw := r.cw, fcs := r.fcs, ch := r.ch, num := r.rest }) := by
  show execCwenc s = _
  simp only [execCwenc, ensureTables_of_tablesOk s hs, h]
  rfl

theorem exec_cwdec_of_error {r : Reason} (h : cwDecode builtTables s.ch = .error r) :
    exec .cwdec s
      = .next (ended .invalid r { built s with errcnt := BitVec.ofNat 4 (missCount builtTables s.ch) }) := by
  show execCwdec s = _
  simp only [execCwdec, ensureTables_of_tablesOk s hs, h]
  rfl

theorem exec_cwdec_of_ok {d : CwDecoded} (h : cwDecode builtTables s.ch = .ok d) :
    exec .cwdec s
      = .next (ended .ok .none
          { built s with
            errcnt := BitVec.ofNat 4 (missCount builtTables s.ch)
            cw := d.cw
            rfcs := d.fcs
            fcs := d.fcs
            num := d.num }) := by
  show execCwdec s = _
  simp only [execCwdec, ensureTables_of_tablesOk s hs, h]
  rfl

end

/-- Settles O37: the digits of R201, or its refusal. -/
theorem cwencResult : Obligations.CwencResult := by
  refine ⟨by decide, fun s hs => ⟨fun hle => exec_cwenc_of_none hs (cwEncode_of_le hle _), fun hlt => ?_⟩⟩
  obtain ⟨r, hr, henc⟩ := exists_cwEncode hlt builtTables
  have hfcs := henc.fcs_eq
  have hrest : numVal r.rest = numVal s.num / (636 * 1365 ^ 8) := by rw [henc.rest_eq, numVal_midDigits]
  refine ⟨_, exec_cwenc_of_some hs hr, by rw [← hfcs]; rfl, ?last, ?mid, ?first, fun n => ?ch, hrest⟩
  case last =>
    exact henc.digits.last_eq.trans (by rw [(mpDivmod_spec s.num 636 (by decide)).2, Nat.mul_comm])
  case mid =>
    rintro ⟨n, hn⟩ h1 h8
    obtain ⟨j, rfl⟩ := Nat.exists_eq_add_of_le' h1
    have hj : j < 8 := Nat.lt_of_succ_le h8
    refine Option.some.inj ((henc.digits.mid_eq ⟨j, hj⟩).trans ?_)
    rw [midDigits_eq_map, List.getElem?_map, List.getElem?_range hj, Nat.add_sub_add_right 7 1 j]
    rfl
  case first =>
    refine henc.digits.first_eq.trans ?_
    rw [hfcs, hrest]
    split <;> rfl
  case ch =>
    rw [← hfcs]
    exact (cwEncode_ch hr n).symm

/-- ERRCNT counts the unpopulated characters, by their weight (R62). -/
theorem missCount_builtTables (ch : Chars) :
    missCount builtTables ch = ch.toList.countP fun p => !([5, 8, 2, 11].contains (popcount13 p)) := by
  refine List.countP_congr fun p _ => ?_
  rw [← Option.not_isSome, Bool.not_eq_true', Bool.not_eq_true', ← Bool.not_eq_true, ← Bool.not_eq_true,
    decRead_builtTables_isSome, List.contains_iff_mem]

theorem toNat_ofNat_missCount (t : List Assignment) (ch : Chars) :
    (BitVec.ofNat 4 (missCount t ch)).toNat = missCount t ch := by
  have := missCount_le t ch
  rw [BitVec.toNat_ofNat, Nat.mod_eq_of_lt (by omega)]

/-- Settles O38: R204 on the two outcomes of R203. -/
theorem cwdecResult : Obligations.CwdecResult := by
  refine ⟨by decide, fun s hs => ?_⟩
  have herrcnt := (toNat_ofNat_missCount builtTables s.ch).trans (missCount_builtTables s.ch)
  cases hd : cwDecode builtTables s.ch with
  | error reason => exact ⟨_, exec_cwdec_of_error hs hd, herrcnt, rfl⟩
  | ok d => exact ⟨_, exec_cwdec_of_ok hs hd, herrcnt, rfl⟩

end Sys2Proof.Machine
end

section
/-! PROOFS. The validation of a record (`45_record.md` R220 to R223): the steps of `validate` as R223 lists them, and
the form of a record that passes them. -/

namespace Sys2Proof.Machine

open Sys2Proof.Claims

theorem isDigits_iff {l : List Byte} : isDigits l = true ↔ ∀ b ∈ l, 0x30 ≤ b.toNat ∧ b.toNat ≤ 0x39 := by
  simp only [isDigits, isDigit, List.all_eq_true, Bool.and_eq_true, decide_eq_true_eq]

theorem isDigitsOf_iff {l : List Byte} {k : Nat} : isDigitsOf l k = true ↔ Digits k l := by
  rw [isDigitsOf, Bool.and_eq_true, isDigits_iff, beq_iff_eq, and_comm]

/-- The second digit of a barcode_id is its only byte behind the first. -/
theorem lt_second_iff {l : List Byte} (h : Digits 2 l) :
    0x34 < (l.getD 1 0).toNat ↔ ¬ ∀ b ∈ l.drop 1, b.toNat ≤ 0x34 := by
  obtain ⟨b0, b1, rfl⟩ := List.length_eq_two.mp h.1
  simp

/-- The status of the first step that fails (R222). -/
def firstViolation (steps : List (Bool × Status)) : Option Status :=
  (steps.find? fun step => step.1).map fun step => step.2

@[simp] theorem firstViolation_nil : firstViolation [] = none := rfl

theorem firstViolation_cons (p : Prop) [Decidable p] (st : Status) (steps : List (Bool × Status)) :
    firstViolation ((decide p, st) :: steps) = if p then some st else firstViolation steps := by
  by_cases hp : p <;> simp [firstViolation, hp]

theorem firstViolation_eq_none {steps : List (Bool × Status)} :
    firstViolation steps = none ↔ ∀ step ∈ steps, step.1 = false := by
  simp [firstViolation]

/-- Settles O42: each branch of `validate` is the step of R223 in its place. -/
theorem validationReportsTheFirstViolation : Obligations.ValidationReportsTheFirstViolation := by
  intro r
  show validate r = firstViolation (validationSteps r)
  have hbarcode : (¬ Digits 2 r.barcodeId ∨ 0x34 < (r.barcodeId.getD 1 0).toNat)
      ↔ (¬ Digits 2 r.barcodeId ∨ ¬ ∀ b ∈ r.barcodeId.drop 1, b.toNat ≤ 0x34) :=
    or_congr_right' fun h => lt_second_iff (not_not.mp h)
  have hserial : isDigits r.serialNum = true ↔ Digits r.serialNum.length r.serialNum :=
    isDigits_iff.trans (and_iff_right rfl).symm
  simp only [validate, validationSteps, firstViolation_cons, firstViolation_nil, isDigitsOf_iff, not_or,
    hbarcode, hserial]

/-- The routing fields of a valid record: none, or a ZIP, or a ZIP and a plus4, or all three (R223, R228). -/
inductive Record.Routing (r : Record) : Prop
  | absent (hzip : r.zip = []) (hplus4 : r.plus4 = []) (hdp : r.deliveryPt = [])
  | zip (hzip : Digits 5 r.zip) (hplus4 : r.plus4 = []) (hdp : r.deliveryPt = [])
  | plus4 (hzip : Digits 5 r.zip) (hplus4 : Digits 4 r.plus4) (hdp : r.deliveryPt = [])
  | deliveryPt (hzip : Digits 5 r.zip) (hplus4 : Digits 4 r.plus4) (hdp : Digits 2 r.deliveryPt)

/-- What the seven steps of R223 ask of a record. -/
structure Record.Valid (r : Record) : Prop where
  routing : r.Routing
  barcodeId : Digits 2 r.barcodeId
  barcodeId_le : ∀ b ∈ r.barcodeId.drop 1, b.toNat ≤ 0x34
  serviceType : Digits 3 r.serviceType
  mailerId : Digits 6 r.mailerId ∨ Digits 9 r.mailerId
  serialNum : Digits (15 - r.mailerId.length) r.serialNum

theorem valid_of_validate {r : Record} (h : validate r = none) : r.Valid := by
  have hsteps := firstViolation_eq_none.mp ((validationReportsTheFirstViolation r).symm.trans h)
  simp only [validationSteps, List.forall_mem_cons, List.not_mem_nil, false_implies, implies_true, and_true,
    decide_eq_false_iff_not, not_and_or, not_or, not_not] at hsteps
  obtain ⟨hzip, hplus4, hdp, ⟨hbarcode, hbarcodeLe⟩, hservice, hmailer, -, ⟨-, hserial⟩, hlength⟩ := hsteps
  refine ⟨?_, hbarcode, hbarcodeLe, hservice, hmailer, by omega, hserial⟩
  rcases hzip with hzip | hzip
  · exact .absent hzip (hplus4.resolve_right fun h => h.1 hzip) (hdp.resolve_right fun h => h.1 hzip)
  rcases hplus4 with hplus4 | ⟨-, hplus4⟩
  · exact .zip hzip hplus4 (hdp.resolve_right fun h => h.2.1 hplus4)
  rcases hdp with hdp | ⟨-, -, hdp⟩
  · exact .plus4 hzip hplus4 hdp
  · exact .deliveryPt hzip hplus4 hdp

end Sys2Proof.Machine
end

section
/-! PROOFS. Packing (`45_record.md` R220, R224, R225, R228): the bytes of a digit text as a digit string, and the number
that `pack` makes of a valid record. -/

namespace Sys2Proof.Machine

open Sys2Proof.Claims

/-! Digit texts (R220). -/

/-- The digits of a text, most significant first. -/
def digitsOf (l : List Byte) : List Nat := l.map digitValue

@[simp] theorem length_digitsOf (l : List Byte) : (digitsOf l).length = l.length := List.length_map _

@[simp] theorem digitsOf_append (a b : List Byte) : digitsOf (a ++ b) = digitsOf a ++ digitsOf b := List.map_append

theorem intOf_eq_horner (l : List Byte) : intOf l = horner 10 0 (digitsOf l) := by
  rw [intOf, horner, digitsOf, List.foldl_map]

theorem horner_append (d lead : Nat) (a b : List Nat) : horner d lead (a ++ b) = horner d (horner d lead a) b :=
  List.foldl_append

/-- The leading value stands above the digits. -/
theorem horner_eq_add (d lead : Nat) (ds : List Nat) : horner d lead ds = lead * d ^ ds.length + horner d 0 ds := by
  induction ds generalizing lead with
  | nil => simp [horner]
  | cons c ds ih =>
    rw [horner_cons, horner_cons, ih (lead * d + c), ih (0 * d + c), List.length_cons, Nat.pow_succ']
    ring

theorem horner_digitsOf (lead : Nat) (l : List Byte) :
    horner 10 lead (digitsOf l) = lead * 10 ^ l.length + intOf l := by
  rw [horner_eq_add, length_digitsOf, intOf_eq_horner]

theorem intOf_append (a b : List Byte) : intOf (a ++ b) = intOf a * 10 ^ b.length + intOf b := by
  rw [intOf_eq_horner, digitsOf_append, horner_append, horner_digitsOf, ← intOf_eq_horner]

section
variable {k : Nat} {l : List Byte} (h : Digits k l)
include h

theorem digitsOf_lt : ∀ c ∈ digitsOf l, c < 10 := by
  intro c hc
  obtain ⟨b, hb, rfl⟩ := List.mem_map.mp hc
  have := h.2 b hb
  rw [digitValue]
  omega

theorem intOf_lt : intOf l < 10 ^ k := by
  have hlt := horner_lt (digitsOf_lt h) 0
  rwa [← intOf_eq_horner, length_digitsOf, h.1, Nat.zero_add, Nat.one_mul] at hlt

/-- A digit text is written again from its digits (R226). -/
theorem map_digitByte_digitsOf : (digitsOf l).map digitByte = l := by
  rw [digitsOf, List.map_map]
  refine (List.map_congr_left fun b hb => ?_).trans (List.map_id _)
  have := h.2 b hb
  refine BitVec.eq_of_toNat_eq ?_
  show (BitVec.ofNat 8 (0x30 + (b.toNat - 0x30))).toNat = b.toNat
  rw [BitVec.toNat_ofNat]
  omega

theorem ne_nil_of_digits (hk : k ≠ 0 := by decide) : l ≠ [] := by
  rintro rfl
  exact hk h.1.symm

theorem digits_append {m : Nat} {l' : List Byte} (h' : Digits m l') : Digits (k + m) (l ++ l') :=
  ⟨by rw [List.length_append, h.1, h'.1], List.forall_mem_append.mpr ⟨h.2, h'.2⟩⟩

end

/-- A text of `m + n` digits is `m` digits before `n`. -/
theorem exists_digits_append {m n : Nat} {l : List Byte} (h : Digits (m + n) l) :
    ∃ a b, l = a ++ b ∧ Digits m a ∧ Digits n b := by
  obtain ⟨hlen, hdigits⟩ := h
  refine ⟨l.take m, l.drop m, (List.take_append_drop m l).symm, ⟨?_, fun b hb => ?_⟩, ⟨?_, fun b hb => ?_⟩⟩
  · rw [List.length_take]; omega
  · exact hdigits b (List.mem_of_mem_take hb)
  · rw [List.length_drop]; omega
  · exact hdigits b (List.mem_of_mem_drop hb)

/-! The packed number (R224, R228). -/

theorem mpAdd_numOf (v s : Nat) : (mpAdd (numOf v) s).1 = numOf (v + s) := by
  refine eq_of_numVal_eq ?_
  rw [(mpAdd_eq _ _).1, numVal_numOf, numVal_numOf, numVal_numOf, Nat.mod_mod, Nat.mod_add_mod]

theorem mulAdd_numOf (m a v : Nat) : mulAdd m a (numOf v) = numOf (v * m + a) := mpMulAdd_numOf v m a

/-- The routing part of `pack` is R228's routing value. -/
theorem Record.Routing.packRouting_eq {r : Record} (h : r.Routing) : packRouting r = numOf (routingValue r) := by
  cases h with
  | absent hzip hplus4 hdp => simp [packRouting, markerOf, routingValue, hzip, hplus4, hdp, mpAdd_numOf]
  | zip hzip hplus4 hdp =>
    simp [packRouting, markerOf, routingValue, ne_nil_of_digits hzip, hplus4, hdp, mpAdd_numOf]
  | plus4 hzip hplus4 hdp =>
    simp [packRouting, markerOf, routingValue, ne_nil_of_digits hzip, ne_nil_of_digits hplus4, hdp, mpAdd_numOf,
      mulAdd_numOf, Config.markZip, Config.markPlus4]
  | deliveryPt hzip hplus4 hdp =>
    simp [packRouting, markerOf, routingValue, ne_nil_of_digits hzip, ne_nil_of_digits hplus4, ne_nil_of_digits hdp,
      mpAdd_numOf, mulAdd_numOf, Config.markZip, Config.markPlus4, Config.markDp]

section
variable {r : Record} (h : r.Valid)
include h

theorem Record.Valid.account : Digits 15 (r.mailerId ++ r.serialNum) := by
  have hserial := h.serialNum
  rcases h.mailerId with hmailer | hmailer <;> rw [hmailer.1] at hserial <;> exact digits_append hmailer hserial

/-- Either multiplier sequence puts the 15 digits of mailer_id and serial_num behind the number (R224). -/
theorem Record.Valid.packMailer_eq (v : Nat) :
    packMailer r.mailerId r.serialNum (numOf v) = numOf (v * 10 ^ 15 + intOf (r.mailerId ++ r.serialNum)) := by
  have hserial := h.serialNum
  rw [intOf_append, hserial.1, packMailer]
  rcases h.mailerId with hmailer | hmailer
  · rw [if_pos hmailer.1, hmailer.1]
    simp only [mulAdd_numOf]
    exact congrArg numOf (by ring)
  · rw [if_neg (by rw [hmailer.1]; decide), hmailer.1]
    simp only [mulAdd_numOf]
    exact congrArg numOf (by ring)

/-- `pack` leaves R228's value. -/
theorem Record.Valid.pack_eq : pack r = numOf (packValue r) := by
  obtain ⟨b0, b1, hbarcode⟩ := List.length_eq_two.mp h.barcodeId.1
  simp only [pack, h.routing.packRouting_eq, mulAdd_numOf, h.packMailer_eq, packValue, hbarcode]
  refine congrArg numOf ?_
  simp [intOf]
  ring

end

/-! The command (R225). -/

theorem exec_pack_of_some {s : State} {st : Status} (h : validate (normalisedRecord s) = some st) :
    exec .pack s = .next (ended st .none s) := by
  show execPack s = _
  rw [execPack, h]
  rfl

theorem exec_pack_of_none {s : State} (h : validate (normalisedRecord s) = none) :
    exec .pack s = .next (ended .ok .none { s with num := pack (normalisedRecord s) }) := by
  show execPack s = _
  rw [execPack, h]
  rfl

/-- Settles O43: validation, then the value of the validated fields. -/
theorem packResult : Obligations.PackResult := by
  refine ⟨by decide, fun s => ⟨fun st => exec_pack_of_some, fun hvalid => ?_⟩⟩
  rw [exec_pack_of_none hvalid, (valid_of_validate hvalid).pack_eq]

end Sys2Proof.Machine
end

section
/-! PROOFS. Unpacking (`45_record.md` R226, R227, R229): the quotient that is left of a number, the digits that come back
out of one made of digits, and so the record that comes back out of a packed one. -/

namespace Sys2Proof.Machine

open Sys2Proof.Claims

theorem mpIszero_iff (num : Number) : mpIszero num = true ↔ numVal num = 0 := by
  rw [mpIszero_eq, decide_eq_true_iff, forall_word_eq_zero_iff]

theorem mpIszero_numOf {v : Nat} (h : v < 2 ^ 110) : mpIszero (numOf v) = decide (v = 0) := by
  rw [Bool.eq_iff_iff, mpIszero_iff, numVal_numOf, Nat.mod_eq_of_lt h, decide_eq_true_iff]

/-- Taking off the marker unit of a number that is not 0 (R226). -/
theorem numVal_mpSub_one {num : Number} (h : numVal num ≠ 0) : numVal (mpSub num 1).1 = numVal num - 1 := by
  have hlt := numVal_lt num
  rw [mpSub, if_pos (Nat.one_le_iff_ne_zero.mpr h), numVal_numOf, Nat.mod_eq_of_lt (by omega)]

/-- One block of R226's routing loop. -/
theorem unpackRoute_cons (size : Nat) (sizes : List Nat) (num : Number) (route : List Byte) :
    unpackRoute (size :: sizes) num route
      = if mpIszero num then (num, route)
        else unpackRoute sizes (takeDigits 10 size (mpSub num 1).1 []).1
          ((takeDigits 10 size (mpSub num 1).1 []).2.map digitByte ++ route) := rfl

/-! What is left of a number (R227). -/

/-- Each block takes off a unit and divides; 0 stays 0. -/
theorem numVal_unpackRoute (sizes : List Nat) (num : Number) (route : List Byte) :
    numVal (unpackRoute sizes num route).1 = sizes.foldl (fun v size => (v - 1) / 10 ^ size) (numVal num) := by
  induction sizes generalizing num route with
  | nil => rfl
  | cons size sizes ih =>
    rw [unpackRoute_cons, List.foldl_cons]
    split
    next hzero =>
      have hstays : sizes.foldl (fun v size => (v - 1) / 10 ^ size) 0 = 0 :=
        List.foldlRecOn (motive := fun v => v = 0) sizes _ rfl fun v hv _ _ => by rw [hv, Nat.zero_sub, Nat.zero_div]
      rw [(mpIszero_iff num).mp hzero, Nat.zero_sub, Nat.zero_div, hstays]
    next hzero =>
      have hne : numVal num ≠ 0 := fun h => hzero ((mpIszero_iff num).mpr h)
      rw [ih, (takeDigits_spec 10 (by decide) _ _ _).1, numVal_mpSub_one hne]

/-- The number in front of the routing loop: the 18 low digits, the barcode_id's second digit in base 5 and its first
are taken (R226). -/
def routingNumber (num : Number) : Number := (mpDivmod (mpDivmod (takeDigits 10 18 num []).1 5).1 10).1

theorem numVal_routingNumber (num : Number) : numVal (routingNumber num) = numVal num / (5 * 10 ^ 19) := by
  rw [routingNumber, (mpDivmod_spec _ 10 (by decide)).1, (mpDivmod_spec _ 5 (by decide)).1,
    (takeDigits_spec 10 (by decide) _ _ _).1, Nat.div_div_eq_div_mul, Nat.div_div_eq_div_mul]
  norm_num

theorem unpack_residue (num : Number) :
    (unpack num).residue = !mpIszero (unpackRoute [5, 4, 2] (routingNumber num) []).1 := by
  simp only [unpack, routingNumber]

/-- A residue stays exactly above the greatest routing value (R227). -/
theorem unpack_residue_iff (num : Number) :
    (unpack num).residue = true ↔ 101000100000 < numVal num / (5 * 10 ^ 19) := by
  rw [unpack_residue, Bool.not_eq_true', ← Bool.not_eq_true, mpIszero_iff, numVal_unpackRoute, numVal_routingNumber]
  simp only [List.foldl_cons, List.foldl_nil]
  omega

/-! The command (R227). -/

theorem exec_unpack_of_residue {s : State} (h : (unpack s.num).residue = true) :
    exec .unpack s = .next (ended .invalid .route s) := by
  show execUnpack s = _
  rw [execUnpack, if_pos h]
  rfl

theorem exec_unpack_of_no_residue {s : State} (h : (unpack s.num).residue = false) :
    exec .unpack s = .next (complete { writeRecord (unpack s.num).record s with num := numOf 0 }) := by
  show execUnpack s = _
  rw [execUnpack, if_neg (by rw [h]; decide)]

theorem numOf_zero : numOf 0 = Vector.replicate 10 0 := by decide

/-- Settles O44: the residue as a bound on N; the record's fields fit their buffers. -/
theorem unpackResult : Obligations.UnpackResult := by
  refine ⟨by decide, fun s => ⟨fun hlt => ?residue, fun hle => ?fields⟩⟩
  case residue => exact exec_unpack_of_residue ((unpack_residue_iff s.num).mpr hlt)
  case fields =>
    have hres : (unpack s.num).residue = false :=
      Bool.not_eq_true _ ▸ fun h => Nat.not_lt_of_le hle ((unpack_residue_iff s.num).mp h)
    refine ⟨_, exec_unpack_of_no_residue hres, ?_, fun f => ?_, fun f i => ?_⟩
    · rw [numOf_zero]
      rfl
    · exact fieldOf_writeRecord _ s f (unpack_fits s.num f)
    · exact recb_writeRecord_of_le _ s f i

/-! Digits that come back (R226). -/

/-- R226's loop takes back the digits a number is made of. -/
theorem takeDigits_numOf {d v : Nat} {ds : List Nat} (hds : ∀ c ∈ ds, c < d) (hd : 0 < d)
    (hlt : horner d v ds < 2 ^ 110) : takeDigits d ds.length (numOf (horner d v ds)) [] = (numOf v, ds) := by
  set taken := takeDigits d ds.length (numOf (horner d v ds)) [] with htaken
  have hvalue : horner d (numVal taken.1) taken.2 = horner d v ds := by
    rw [htaken, horner_takeDigits hd, numVal_numOf, Nat.mod_eq_of_lt hlt]
    rfl
  have hlen : taken.2.length = ds.length := by simp [htaken, (takeDigits_spec d hd _ _ _).2]
  obtain ⟨hlead, hdigits⟩ := horner_inj hlen (fun c hc => takeDigits_lt hd _ _ hc) hds hvalue
  exact Prod.ext (eq_numOf_of_numVal hlead) hdigits

theorem mpDivmod_numOf {d v c : Nat} (hc : c < d) (hlt : v * d + c < 2 ^ 110) :
    mpDivmod (numOf (v * d + c)) d = (numOf v, c) := by
  have hd : 0 < d := Nat.zero_lt_of_lt hc
  rw [mpDivmod_eq _ hd, numVal_numOf, Nat.mod_eq_of_lt hlt, Nat.mul_comm v d, Nat.mul_add_div hd, Nat.div_eq_of_lt hc,
    Nat.mul_add_mod, Nat.mod_eq_of_lt hc, Nat.add_zero]

/-- A block of the routing digits with its marker unit comes back (R226). -/
theorem unpackRoute_block {size v : Nat} {l : List Byte} (hl : Digits size l)
    (hlt : v * 10 ^ size + intOf l + 1 < 2 ^ 110) (sizes : List Nat) (route : List Byte) :
    unpackRoute (size :: sizes) (numOf (v * 10 ^ size + intOf l + 1)) route
      = unpackRoute sizes (numOf v) (l ++ route) := by
  have hsub : (mpSub (numOf (v * 10 ^ size + intOf l + 1)) 1).1 = numOf (horner 10 v (digitsOf l)) := by
    refine eq_numOf_of_numVal ?_
    rw [numVal_mpSub_one, numVal_numOf, Nat.mod_eq_of_lt hlt, horner_digitsOf, hl.1, Nat.add_sub_cancel]
    rw [numVal_numOf, Nat.mod_eq_of_lt hlt]
    exact Nat.succ_ne_zero _
  have htake : takeDigits 10 size (numOf (horner 10 v (digitsOf l))) [] = (numOf v, digitsOf l) := by
    have hlt' : horner 10 v (digitsOf l) < 2 ^ 110 := by rw [horner_digitsOf, hl.1]; omega
    have htake := takeDigits_numOf (digitsOf_lt hl) (by decide) hlt'
    rwa [length_digitsOf, hl.1] at htake
  rw [unpackRoute_cons, mpIszero_numOf hlt, if_neg (by simp), hsub, htake, map_digitByte_digitsOf hl]

theorem unpackRoute_zero (sizes : List Nat) (route : List Byte) :
    unpackRoute sizes (numOf 0) route = (numOf 0, route) := by
  cases sizes with
  | nil => rfl
  | cons size sizes => rw [unpackRoute_cons, mpIszero_numOf (by decide), if_pos (by decide)]

/-- The routing digits of the four forms of R228's table come back from their value: none, then one, two and three
blocks. -/
theorem unpackRoute_five {l : List Byte} (h : Digits 5 l) :
    unpackRoute [5, 4, 2] (numOf (intOf l + 1)) [] = (numOf 0, l) := by
  have hlt := intOf_lt h
  have hblock := unpackRoute_block (v := 0) h (by omega) [4, 2] []
  rwa [Nat.zero_mul, Nat.zero_add, unpackRoute_zero, List.append_nil] at hblock

theorem unpackRoute_nine {l : List Byte} (h : Digits 9 l) :
    unpackRoute [5, 4, 2] (numOf (intOf l + 100001)) [] = (numOf 0, l) := by
  obtain ⟨a, b, rfl, ha, hb⟩ := exists_digits_append (m := 4) (n := 5) h
  have hblocks : intOf (a ++ b) + 100001 = (0 * 10 ^ 4 + intOf a + 1) * 10 ^ 5 + intOf b + 1 := by
    rw [intOf_append, hb.1]
    ring
  have := intOf_lt ha
  have := intOf_lt hb
  rw [hblocks, unpackRoute_block hb (by omega), unpackRoute_block ha (by omega), unpackRoute_zero, List.append_nil]

theorem unpackRoute_eleven {l : List Byte} (h : Digits 11 l) :
    unpackRoute [5, 4, 2] (numOf (intOf l + 1000100001)) [] = (numOf 0, l) := by
  obtain ⟨ab, c, rfl, hab, hc⟩ := exists_digits_append (m := 6) (n := 5) h
  obtain ⟨a, b, rfl, ha, hb⟩ := exists_digits_append (m := 2) (n := 4) hab
  have hblocks : intOf (a ++ b ++ c) + 1000100001
      = ((0 * 10 ^ 2 + intOf a + 1) * 10 ^ 4 + intOf b + 1) * 10 ^ 5 + intOf c + 1 := by
    rw [intOf_append, intOf_append, hb.1, hc.1]
    ring
  have := intOf_lt ha
  have := intOf_lt hb
  have := intOf_lt hc
  rw [hblocks, unpackRoute_block hc (by omega), unpackRoute_block hb (by omega), unpackRoute_block ha (by omega),
    unpackRoute_zero, List.append_nil, List.append_assoc]

/-- The routing digits of a record (R224). -/
def Record.route (r : Record) : List Byte := r.zip ++ r.plus4 ++ r.deliveryPt

/-- The 20 tracking digits of a record (R224). -/
def Record.tracking (r : Record) : List Byte := r.barcodeId ++ (r.serviceType ++ (r.mailerId ++ r.serialNum))

section
variable {r : Record} (h : r.Routing)
include h

theorem Record.Routing.unpackRoute_eq :
    unpackRoute [5, 4, 2] (numOf (routingValue r)) [] = (numOf 0, r.route) := by
  cases h with
  | absent hzip hplus4 hdp =>
    rw [routingValue, if_pos hzip, unpackRoute_zero, Record.route, hzip, hplus4, hdp]
    rfl
  | zip hzip hplus4 hdp =>
    rw [routingValue, if_neg (ne_nil_of_digits hzip), if_pos hplus4, Record.route, hplus4, hdp, List.append_nil,
      List.append_nil, unpackRoute_five hzip]
  | plus4 hzip hplus4 hdp =>
    have hroute := unpackRoute_nine (digits_append hzip hplus4)
    rw [intOf_append, hplus4.1] at hroute
    rw [routingValue, if_neg (ne_nil_of_digits hzip), if_neg (ne_nil_of_digits hplus4), if_pos hdp, Record.route, hdp,
      List.append_nil]
    exact hroute
  | deliveryPt hzip hplus4 hdp =>
    have hroute := unpackRoute_eleven (digits_append (digits_append hzip hplus4) hdp)
    rw [intOf_append, intOf_append, hplus4.1, hdp.1] at hroute
    rw [routingValue, if_neg (ne_nil_of_digits hzip), if_neg (ne_nil_of_digits hplus4), if_neg (ne_nil_of_digits hdp),
      Record.route]
    exact hroute

theorem Record.Routing.value_le : routingValue r ≤ 101000100000 := by
  cases h with
  | absent hzip => rw [routingValue, if_pos hzip]; exact Nat.zero_le _
  | zip hzip hplus4 =>
    have := intOf_lt hzip
    rw [routingValue, if_neg (ne_nil_of_digits hzip), if_pos hplus4]
    omega
  | plus4 hzip hplus4 hdp =>
    have := intOf_lt hzip
    have := intOf_lt hplus4
    rw [routingValue, if_neg (ne_nil_of_digits hzip), if_neg (ne_nil_of_digits hplus4), if_pos hdp]
    omega
  | deliveryPt hzip hplus4 hdp =>
    have := intOf_lt hzip
    have := intOf_lt hplus4
    have := intOf_lt hdp
    rw [routingValue, if_neg (ne_nil_of_digits hzip), if_neg (ne_nil_of_digits hplus4), if_neg (ne_nil_of_digits hdp)]
    omega

/-- The routing digits are cut where they were joined (R226). -/
theorem Record.Routing.route_fields :
    r.route.take 5 = r.zip ∧ (r.route.drop 5).take 4 = r.plus4 ∧ (r.route.drop 9).take 2 = r.deliveryPt := by
  cases h with
  | absent hzip hplus4 hdp => simp [Record.route, hzip, hplus4, hdp]
  | zip hzip hplus4 hdp => simp [Record.route, hzip.1, hplus4, hdp]
  | plus4 hzip hplus4 hdp => simp [Record.route, hzip.1, hplus4.1, hdp, List.take_append, List.drop_append]
  | deliveryPt hzip hplus4 hdp =>
    have hlen : (r.zip ++ r.plus4).length = 9 := (digits_append hzip hplus4).1
    refine ⟨by simp [Record.route, hzip.1], by simp [Record.route, hzip.1, hplus4.1], ?_⟩
    rw [Record.route, List.drop_left' hlen, List.take_of_length_le hdp.1.le]

end

/-! A packed record (R224, R226, R229). -/

/-- A number made of a routing value, the barcode_id's two digits and 18 more comes apart again (R226). -/
theorem unpack_numOf {R b0 b1 : Nat} {ds : List Nat} (hb0 : b0 < 10) (hb1 : b1 < 5) (hlen : ds.length = 18)
    (hds : ∀ c ∈ ds, c < 10) (hlt : horner 10 ((R * 10 + b0) * 5 + b1) ds < 2 ^ 110) :
    unpack (numOf (horner 10 ((R * 10 + b0) * 5 + b1) ds))
      = { record := splitFields ((b0 :: b1 :: ds).map digitByte) (unpackRoute [5, 4, 2] (numOf R) []).2
          residue := !mpIszero (unpackRoute [5, 4, 2] (numOf R) []).1 } := by
  have hlead : (R * 10 + b0) * 5 + b1 < 2 ^ 110 := by
    rw [horner_eq_add, hlen] at hlt
    omega
  have htake := takeDigits_numOf hds (by decide) hlt
  rw [hlen] at htake
  simp only [unpack, htake, mpDivmod_numOf hb1 hlead, mpDivmod_numOf hb0 (show R * 10 + b0 < 2 ^ 110 by omega)]

section
variable {r : Record} (h : r.Valid)
include h

/-- The tracking digits are cut where they were joined, the 15 last as the sentinel says (R226). -/
theorem Record.Valid.splitFields_eq : splitFields r.tracking r.route = splitBySentinel r := by
  obtain ⟨hzip, hplus4, hdp⟩ := h.routing.route_fields
  have hfront : (r.barcodeId ++ r.serviceType).length = 5 := by rw [List.length_append, h.barcodeId.1, h.serviceType.1]
  have hdrop : r.tracking.drop 5 = r.mailerId ++ r.serialNum := by
    rw [Record.tracking, ← List.append_assoc, List.drop_left' hfront]
  have hsentinel : r.tracking.getD 5 0x30 = 0x39 ↔ (r.mailerId ++ r.serialNum).head? = some 0x39 := by
    rw [List.getD_eq_getElem?_getD, ← List.head?_drop, hdrop]
    cases (r.mailerId ++ r.serialNum).head? <;> simp
  have hbarcode : r.tracking.take 2 = r.barcodeId := by
    rw [Record.tracking, List.take_left' h.barcodeId.1]
  have hservice : (r.tracking.drop 2).take 3 = r.serviceType := by
    rw [Record.tracking, List.drop_left' h.barcodeId.1, List.take_left' h.serviceType.1]
  simp only [splitFields, splitBySentinel, hzip, hplus4, hdp, hbarcode, hservice, hsentinel, ← List.drop_drop, hdrop]

/-- The packed value is a digit string behind the barcode_id's digits (R228). -/
theorem Record.Valid.packValue_eq_horner :
    packValue r = horner 10 ((routingValue r * 10 + intOf (r.barcodeId.take 1)) * 5 + intOf (r.barcodeId.drop 1))
      (digitsOf (r.serviceType ++ (r.mailerId ++ r.serialNum))) := by
  rw [horner_digitsOf, (digits_append h.serviceType h.account).1, intOf_append, h.account.1, packValue, Nat.add_assoc]

/-- The barcode_id's digits, the second one in base 5 (R223). -/
theorem Record.Valid.barcodeDigits :
    digitsOf r.barcodeId = [intOf (r.barcodeId.take 1), intOf (r.barcodeId.drop 1)]
      ∧ intOf (r.barcodeId.take 1) < 10 ∧ intOf (r.barcodeId.drop 1) < 5 := by
  obtain ⟨b0, b1, hbarcode⟩ := List.length_eq_two.mp h.barcodeId.1
  have hb0 : digitValue b0 < 10 := digitsOf_lt h.barcodeId _ (by simp [hbarcode, digitsOf])
  have hb1 : b1.toNat ≤ 0x34 := h.barcodeId_le b1 (by simp [hbarcode])
  have hb1 : digitValue b1 < 5 := by rw [digitValue]; omega
  simpa [hbarcode, intOf, digitsOf] using ⟨hb0, hb1⟩

/-- A packed value is in the codeword space (R200). -/
theorem Record.Valid.packValue_lt : packValue r < codewordSpace := by
  obtain ⟨-, hfirst, hsecond⟩ := h.barcodeDigits
  have hrouting := h.routing.value_le
  have hservice := intOf_lt h.serviceType
  have haccount := intOf_lt h.account
  rw [packValue, codewordSpace]
  omega

theorem Record.Valid.packValue_lt_two_pow : packValue r < 2 ^ 110 := h.packValue_lt.trans (by decide)

/-- A packed record comes back, its 15 last digits split by the sentinel. -/
theorem Record.Valid.unpack_pack : unpack (pack r) = { record := splitBySentinel r, residue := false } := by
  obtain ⟨hbarcode, hfirst, hsecond⟩ := h.barcodeDigits
  have hlow := digits_append h.serviceType h.account
  have htracking : (digitsOf r.tracking).map digitByte = r.tracking :=
    map_digitByte_digitsOf (digits_append h.barcodeId hlow)
  rw [Record.tracking, digitsOf_append, hbarcode, ← Record.tracking] at htracking
  have hlt := h.packValue_lt_two_pow
  rw [h.packValue_eq_horner] at hlt
  rw [h.pack_eq, h.packValue_eq_horner, unpack_numOf hfirst hsecond ((length_digitsOf _).trans hlow.1)
    (digitsOf_lt hlow) hlt, h.routing.unpackRoute_eq, mpIszero_numOf (by decide), ← h.splitFields_eq, ← htracking]
  rfl

end

theorem splitBySentinel_of_sentinel {r : Record} (h : (r.mailerId ++ r.serialNum).head? = some 0x39) :
    splitBySentinel r = { r with
      mailerId := (r.mailerId ++ r.serialNum).take 9
      serialNum := (r.mailerId ++ r.serialNum).drop 9 } := by
  simp only [splitBySentinel, if_pos h]

theorem splitBySentinel_of_not_sentinel {r : Record} (h : (r.mailerId ++ r.serialNum).head? ≠ some 0x39) :
    splitBySentinel r = { r with
      mailerId := (r.mailerId ++ r.serialNum).take 6
      serialNum := (r.mailerId ++ r.serialNum).drop 6 } := by
  simp only [splitBySentinel, if_neg h]

section
variable {r : Record} (h : r.Valid)
include h

theorem Record.Valid.head?_account : (r.mailerId ++ r.serialNum).head? = r.mailerId.head? := by
  refine List.head?_append_of_ne_nil _ ?_
  rcases h.mailerId with hmailer | hmailer <;> exact ne_nil_of_digits hmailer

/-- The sentinel's split of a record that follows it is the record's own (R229). -/
theorem Record.Valid.splitBySentinel_eq (hsplit : SentinelSplit r) : splitBySentinel r = r := by
  by_cases hhead : r.mailerId.head? = some 0x39
  · have hlen := hsplit.mpr hhead
    rw [splitBySentinel_of_sentinel (h.head?_account ▸ hhead), List.take_left' hlen, List.drop_left' hlen]
  · have hlen : r.mailerId.length = 6 := (h.mailerId.resolve_right fun hnine => hhead (hsplit.mp hnine.1)).1
    rw [splitBySentinel_of_not_sentinel (h.head?_account ▸ hhead), List.take_left' hlen, List.drop_left' hlen]

end

/-- Settles O45: a packed record comes back split by the sentinel, which takes three digits more or three fewer where
the record's own split is the other one. -/
theorem unpackOfPack : Obligations.UnpackOfPack := by
  intro r hvalid
  have h := valid_of_validate hvalid
  rw [h.unpack_pack]
  refine ⟨fun hsplit => ?own, fun hlen hhead => ?nine, fun hlen hhead => ?six⟩
  case own => rw [h.splitBySentinel_eq hsplit]
  case nine =>
    rw [splitBySentinel_of_sentinel (h.head?_account.trans hhead), List.take_append, List.drop_append, hlen,
      List.take_of_length_le (by omega), List.drop_of_length_le (by omega), List.nil_append]
  case six =>
    rw [splitBySentinel_of_not_sentinel (h.head?_account.trans_ne hhead), List.take_append, List.drop_append, hlen,
      List.take_zero, List.drop_zero, List.append_nil]

end Sys2Proof.Machine
end

section
/-! PROOFS. The round trip of a record through ENCODE and DECODE (`46_encode_decode.md` R251 to R254, R258): the printed
text reads as its symbols, so that DECODE commits in its STRICT phase what ENCODE packed. -/

namespace Sys2Proof.Machine

open Sys2Proof.Claims

/-! The printed text (R180, R183). -/

theorem norm_symbolByte_cons (sy : Symbol) (t : List Byte) : norm (symbolByte sy :: t) = symbolByte sy :: norm t := by
  cases sy <;> rfl

theorem norm_map_symbolByte (l : List Symbol) : norm (l.map symbolByte) = l.map symbolByte := by
  induction l with
  | nil => rfl
  | cons sy l ih => rw [List.map_cons, norm_symbolByte_cons, ih]

theorem byteSymbol_symbolByte {sy : Symbol} (h : sy ≠ .x) : byteSymbol (symbolByte sy) = some sy := by
  cases sy with
  | t | a | d | f => rfl
  | x => exact absurd rfl h

/-- Printed symbols are read back (R183). -/
theorem toSymbols_map_symbolByte {l : List Symbol} (h : ∀ sy ∈ l, sy ≠ .x) : toSymbols (l.map symbolByte) = some l := by
  rw [toSymbols, norm_map_symbolByte]
  induction l with
  | nil => rfl
  | cons sy l ih =>
    obtain ⟨hsy, hl⟩ := List.forall_mem_cons.mp h
    exact symbolsOf_cons_eq_some.mpr ⟨sy, l, byteSymbol_symbolByte hsy, ih hl, rfl⟩

/-- Characters are printed without placeholders (R186). -/
theorem charsToSyms_ne_x (ch : Chars) : ∀ sy ∈ (charsToSyms ch).toList, sy ≠ .x := by
  intro sy hsy
  obtain ⟨i, hi, rfl⟩ := Vector.mem_iff_getElem.mp (Vector.mem_toList_iff.mp hsy)
  exact (charsToSyms_getElem ch ⟨i, hi⟩).trans_ne (symbolOfHalves_ne_x _ _)

theorem toSymbols_charsToSyms (ch : Chars) : toSymbols (symsToText (charsToSyms ch)) = some (charsToSyms ch).toList :=
  toSymbols_map_symbolByte (charsToSyms_ne_x ch)

theorem toCandidate_toList (sy : Candidate) : toCandidate sy.toList = sy :=
  Vector.toList_inj.mp (toList_toCandidate sy.length_toList)

/-! ENCODE of a valid record (R251). -/

/-- The state that ENCODE leaves (R251). -/
def encoded (s : State) (r : CwEncoded) : State :=
  complete (putSymbols (charsToSyms r.ch)
    { built s with num := pack (normalisedRecord s), cw := r.cw, fcs := r.fcs, ch := r.ch })

theorem textOf_complete (s : State) : textOf (complete s) = textOf s := rfl

/-- The text it leaves reads as its symbols (R189, R251). -/
theorem toSymbols_encoded (s : State) (r : CwEncoded) :
    toSymbols (textOf (encoded s r)) = some (charsToSyms r.ch).toList := by
  rw [encoded, textOf_complete, textOf_putSymbols, toSymbols_charsToSyms]

theorem exec_encode_of_valid {s : State} (hs : s.TablesOk) (hvalid : validate (normalisedRecord s) = none)
    {r : CwEncoded} (hr : cwEncode builtTables (pack (normalisedRecord s)) = some r) :
    exec .encode s = .next (encoded s r) := by
  have hvalid' : validate (normalisedRecord (built s)) = none := hvalid
  have hr' : cwEncode (built s).tables (pack (normalisedRecord (built s))) = some r := hr
  have hbuilt : ensureTables s = built s := ensureTables_of_tablesOk s hs
  show execEncode s = _
  simp only [execEncode, hbuilt, hvalid', hr']
  rfl

/-! DECODE of a text that decodes strictly (R253). -/

section
variable {s : State} {sy : Candidate}

theorem decodeNorm_of_candidate (h : toSymbols (textOf s) = some sy.toList) : decodeNorm s = .decodeStrict sy := by
  simp only [decodeNorm, h, if_pos sy.length_toList, toCandidate_toList]

theorem decodeStrict_of_ok {d : Decoded} (h : strict s.tables sy = .ok d) : decodeStrict sy s = .decodeCommit sy d := by
  simp only [decodeStrict, h]

/-- The run goes through NORM and STRICT to COMMIT (R270). -/
theorem runJob_of_strict {d : Decoded} (hsy : toSymbols (textOf s) = some sy.toList)
    (hd : strict s.tables sy = .ok d) :
    runJob maxTransitions (enter .decodeNorm s) = complete (commitDecoded sy d s) := by
  have hnorm : decodeNorm (setPhase .norm s) = .decodeStrict sy := decodeNorm_of_candidate hsy
  have hstrict : decodeStrict sy (setPhase .strict s) = .decodeCommit sy d := decodeStrict_of_ok hd
  calc runJob maxTransitions (enter .decodeNorm s)
      = runJob 5 (enter (decodeNorm (setPhase .norm s)) s) := rfl
    _ = runJob 4 (enter (decodeStrict sy (setPhase .strict s)) s) := by rw [hnorm]; rfl
    _ = runJob 3 (.idle, complete (commitDecoded sy d s)) := by rw [hstrict]; rfl
    _ = complete (commitDecoded sy d s) := runJob_idle 3 _

theorem exec_decode_of_strict {d : Decoded} (hs : s.TablesOk) (hsy : toSymbols (textOf s) = some sy.toList)
    (hd : strict builtTables sy = .ok d) :
    exec .decode s = .next (complete (commitDecoded sy d (clearDecodeOutputs (built s)))) := by
  have hbuilt : ensureTables s = built s := ensureTables_of_tablesOk s hs
  show execDecode s = _
  rw [execDecode, hbuilt, runJob_of_strict (s := clearDecodeOutputs (built s)) hsy hd]

end

/-- The characters of an encoded number decode to it and to the record in it (R205, R252). -/
theorem exists_strict_of_cwEncode {num : Number} {r : CwEncoded} (hr : cwEncode builtTables num = some r)
    (hlt : numVal num < codewordSpace) (hres : (unpack num).residue = false) :
    ∃ d, strict builtTables (charsToSyms r.ch) = .ok d ∧ d.num = num ∧ d.record = (unpack num).record := by
  obtain ⟨r', hr', hdec, -⟩ := codewordRoundTrip.1 num hlt
  cases hr.symm.trans hr'
  refine ⟨{ ch := r.ch, cw := r.cw, fcs := r.fcs, num := num, record := (unpack num).record }, ?_, rfl, rfl⟩
  simp only [strict, symsToChars_charsToSyms, decodeChars, hdec, hres, Bool.false_eq_true, if_false]

/-- A committed field reads as the decode's (R254). -/
theorem fieldOf_commitDecoded {d : Decoded} (h : d.record.Fits) (c : Candidate) (s : State) (f : Fin 7) :
    fieldOf (complete (commitDecoded c d s)) f = (recordFields d.record)[f] := by
  have hfield := fieldOf_writeRecord d.record s f (h f)
  simp only [fieldOf, complete_recb, complete_rlen, commitDecoded_recb, commitDecoded_rlen] at hfield ⊢
  exact hfield

/-- Settles O51: DECODE's strict decode of what ENCODE prints is the unpacking of the packed record (R205, R226). -/
theorem decodeOfEncodeRestoresTheRecord : Obligations.DecodeOfEncodeRestoresTheRecord := by
  intro s hs hvalid
  have h := valid_of_validate hvalid
  have hunpack := h.unpack_pack
  have hlt : numVal (pack (normalisedRecord s)) < codewordSpace := by
    rw [h.pack_eq, numVal_numOf, Nat.mod_eq_of_lt h.packValue_lt_two_pow]
    exact h.packValue_lt
  obtain ⟨r, hr, -⟩ := exists_cwEncode hlt builtTables
  obtain ⟨d, hd, hnum, hrecord⟩ := exists_strict_of_cwEncode hr hlt (by rw [hunpack])
  have hfits : d.record.Fits := hrecord ▸ unpack_fits _
  have hsplit : d.record = splitBySentinel (normalisedRecord s) := by rw [hrecord, hunpack]
  have htables : (encoded s r).TablesOk := ⟨nofun, fun _ => rfl⟩
  refine ⟨_, _, exec_encode_of_valid hs hvalid hr, exec_decode_of_strict htables (toSymbols_encoded s r) hd, rfl, hnum,
    fun f => ?fields, fun hown f => ?own⟩
  case fields => rw [fieldOf_commitDecoded hfits, hsplit]
  case own => rw [fieldOf_commitDecoded hfits, hsplit, h.splitBySentinel_eq hown]

end Sys2Proof.Machine
end

section
/-! PROOFS. ENCODE (`46_encode_decode.md` R250, R251): its two outcomes, and the three commands it is composed of. -/

namespace Sys2Proof.Machine

open Sys2Proof.Claims

/-- A packed record is in the codeword space, so `cw_encode` takes it (R200, R251). -/
theorem exists_cwEncode_pack {r : Record} (h : validate r = none) (t : List Assignment) :
    ∃ e, cwEncode t (pack r) = some e := by
  have hvalid := valid_of_validate h
  have hlt : numVal (pack r) < codewordSpace := by
    rw [hvalid.pack_eq, numVal_numOf, Nat.mod_eq_of_lt hvalid.packValue_lt_two_pow]
    exact hvalid.packValue_lt
  obtain ⟨e, he, -⟩ := exists_cwEncode hlt t
  exact ⟨e, he⟩

theorem exec_encode_of_invalid {s : State} (hs : s.TablesOk) {st : Status}
    (h : validate (normalisedRecord s) = some st) : exec .encode s = .next (ended st .none (built s)) := by
  have h' : validate (normalisedRecord (built s)) = some st := h
  have hbuilt : ensureTables s = built s := ensureTables_of_tablesOk s hs
  show execEncode s = _
  simp only [execEncode, hbuilt, h']
  rfl

/-- Settles O46: validation, then `cw_encode` of the packed record, which cannot refuse it. -/
theorem encodeResult : Obligations.EncodeResult := by
  refine ⟨by decide, fun s hs => ⟨fun st => exec_encode_of_invalid hs, fun hvalid => ?_⟩⟩
  obtain ⟨r, hr⟩ := exists_cwEncode_pack hvalid builtTables
  have hpack := (valid_of_validate hvalid).pack_eq
  have hencodes : cwEncode builtTables (numOf (packValue (normalisedRecord s))) = some r := by
    rw [← hpack]
    exact hr
  refine ⟨r, encoded s r, hencodes, exec_encode_of_valid hs hvalid hr, ?frame, fun i => ?text⟩
  case frame =>
    rw [← hpack]
    rfl
  case text => exact getElem_writeFront_symsToText s.txt (charsToSyms r.ch) i

/-- Settles O47: CWENC encodes what PACK left in N, and PERMINV prints CWENC's characters. -/
theorem encodeIsPackCwencPerminv : Obligations.EncodeIsPackCwencPerminv := by
  intro s hs hvalid
  obtain ⟨r, hr⟩ := exists_cwEncode_pack hvalid builtTables
  have hpacked : (ended .ok .none { s with num := pack (normalisedRecord s) }).TablesOk := hs
  exact ⟨_, _, _, _, exec_pack_of_none hvalid, exec_cwenc_of_some hpacked hr, exec_perminv _,
    exec_encode_of_valid hs hvalid hr, rfl⟩

end Sys2Proof.Machine
end

section
/-! PROOFS. The search (`47_repair.md` R274 to R276): depth first, it finds the valid combinations of the candidates in
order and stops at the second. -/

namespace Sys2Proof.Machine

open Sys2Proof.Claims

/-! The combinations that decode. -/

/-- What the characters that decode decode to (R252). -/
def decodes (t : List Assignment) (chs : List Chars) : List Decoded :=
  chs.filterMap fun ch => (decodeChars t ch).toOption

@[simp] theorem decodes_nil (t : List Assignment) : decodes t [] = [] := rfl

@[simp] theorem decodes_append (t : List Assignment) (a b : List Chars) :
    decodes t (a ++ b) = decodes t a ++ decodes t b := List.filterMap_append

theorem decodes_singleton_of_ok {t : List Assignment} {ch : Chars} {d : Decoded} (h : decodeChars t ch = .ok d) :
    decodes t [ch] = [d] := by
  simp [decodes, h, Except.toOption]

theorem decodes_singleton_of_error {t : List Assignment} {ch : Chars} {r : Reason}
    (h : decodeChars t ch = .error r) : decodes t [ch] = [] := by
  simp [decodes, h, Except.toOption]

/-- R276's `valid` is the success of the strict decode (R252). -/
theorem valid_of_decodeChars_ok {t : List Assignment} {ch : Chars} {d : Decoded} (h : decodeChars t ch = .ok d) :
    valid t ch = true := by
  obtain ⟨c, hc, hres, -⟩ := decodeChars_ok t ch d h
  simp [valid, hc, hres]

theorem valid_of_decodeChars_error {t : List Assignment} {ch : Chars} {r : Reason} (h : decodeChars t ch = .error r) :
    valid t ch = false := by
  unfold decodeChars at h
  unfold valid
  split at h
  next hc => rw [hc]
  next c hc =>
    split at h
    next hres => simp [hc, hres]
    next => cases h

/-- The decodes report the characters that are valid. -/
theorem map_ch_decodes (t : List Assignment) (chs : List Chars) :
    (decodes t chs).map (fun d => d.ch) = chs.filter (valid t) := by
  induction chs with
  | nil => rfl
  | cons ch chs ih =>
    rw [← List.singleton_append, decodes_append, List.map_append, List.filter_append, ih]
    congr 1
    cases h : decodeChars t ch with
    | ok d =>
      obtain ⟨c, -, -, hd⟩ := decodeChars_ok t ch d h
      simp [decodes_singleton_of_ok h, valid_of_decodeChars_ok h, hd]
    | error r => simp [decodes_singleton_of_error h, valid_of_decodeChars_error h]

/-! The search. -/

/-- The characters that begin with `cur` and go on with one candidate of each list. -/
def completions (ls : List (List Char13)) (cur : List Char13) : List Chars :=
  (choices ls).map fun c => vecFrom 10 0 (cur ++ c)

@[simp] theorem completions_nil (cur : List Char13) : completions [] cur = [vecFrom 10 0 cur] := by
  simp [completions, choices]

theorem completions_cons (l : List Char13) (ls : List (List Char13)) (cur : List Char13) :
    completions (l :: ls) cur = l.flatMap fun v => completions ls (cur ++ [v]) := by
  simp [completions, choices, List.map_flatMap, Function.comp_def]

theorem take_take_append {α : Type} (k : Nat) (a b : List α) : (a.take k ++ b).take k = (a ++ b).take k := by
  rw [List.take_append, List.take_append, List.take_take, List.length_take, Nat.min_self]
  congr 2
  omega

/-- A fold that adds what each element contributes and keeps two adds all contributions and keeps two. -/
theorem foldl_take_two {f : List Decoded → Char13 → List Decoded} {g : Char13 → List Decoded}
    (hf : ∀ sols v, sols.length ≤ 2 → f sols v = (sols ++ g v).take 2) (l : List Char13) {sols : List Decoded}
    (h : sols.length ≤ 2) : l.foldl f sols = (sols ++ l.flatMap g).take 2 := by
  induction l generalizing sols with
  | nil => simp [List.take_of_length_le h]
  | cons v l ih =>
    rw [List.foldl_cons, hf sols v h, ih (List.length_take_le _ _), take_take_append, List.append_assoc,
      List.flatMap_cons]

theorem search_of_length_eq_two (t : List Assignment) (ls : List (List Char13)) (cur : List Char13)
    {sols : List Decoded} (h : sols.length = 2) (more : List Decoded) :
    search t ls cur sols = (sols ++ more).take 2 := by
  rw [search_of_two t ls cur sols h.ge, ← h, List.take_left]

/-- R276's search adds the decodes of the completions, and keeps two. -/
theorem search_eq (t : List Assignment) (ls : List (List Char13)) (cur : List Char13) {sols : List Decoded}
    (h : sols.length ≤ 2) : search t ls cur sols = (sols ++ decodes t (completions ls cur)).take 2 := by
  induction ls generalizing cur sols with
  | nil =>
    rcases h.eq_or_lt with htwo | hlt
    · exact search_of_length_eq_two t [] cur htwo _
    rw [completions_nil, search, if_neg (Nat.not_le_of_lt hlt)]
    cases hd : decodeChars t (vecFrom 10 0 cur) with
    | ok d => rw [decodes_singleton_of_ok hd, List.take_of_length_le (by simpa using hlt)]
    | error r => rw [decodes_singleton_of_error hd, List.append_nil, List.take_of_length_le h]
  | cons l ls ih =>
    rcases h.eq_or_lt with htwo | hlt
    · exact search_of_length_eq_two t (l :: ls) cur htwo _
    rw [search, if_neg (Nat.not_le_of_lt hlt), foldl_take_two (fun _ v => ih (cur ++ [v])) l h, completions_cons]
    simp [decodes, List.filterMap_flatMap]

/-- The search finds the first two valid combinations in order (R276). -/
theorem map_ch_solutions (t : List Assignment) (ch : Chars) :
    (solutions t ch).map (fun d => d.ch) = (validChoices t ch).take 2 := by
  rw [solutions, search_eq t _ [] (sols := []) (Nat.zero_le 2), List.nil_append, List.map_take, map_ch_decodes,
    validChoices]
  rfl

/-- What the search finds, by the number of valid combinations: none, one, or more (R276). -/
inductive Searched (t : List Assignment) (ch : Chars) : Prop
  | none (hv : validChoices t ch = []) (hs : solutions t ch = [])
  | one (d : Decoded) (hd : d.Sound t) (hv : validChoices t ch = [d.ch]) (hs : solutions t ch = [d])
  | more (c c' : Chars) (cs : List Chars) (d d' : Decoded) (ds : List Decoded) (hv : validChoices t ch = c :: c' :: cs)
    (hs : solutions t ch = d :: d' :: ds)

theorem searched (t : List Assignment) (ch : Chars) : Searched t ch := by
  have hmap := map_ch_solutions t ch
  rcases hv : validChoices t ch with - | ⟨c, - | ⟨c', cs⟩⟩ <;> rw [hv] at hmap
  · exact .none hv (List.map_eq_nil_iff.mp hmap)
  · obtain ⟨d, hs, hd⟩ := List.map_eq_singleton_iff.mp hmap
    exact .one d (solutions_sound (hs ▸ List.mem_singleton_self d)) (hd ▸ hv) hs
  · obtain ⟨d, ds, hs, -, hmap⟩ := List.map_eq_cons_iff.mp hmap
    obtain ⟨d', ds, rfl, -, -⟩ := List.map_eq_cons_iff.mp hmap
    exact .more _ _ _ _ _ _ hv hs

/-! Feasibility (R275). -/

theorem candidateProduct_eq_zero {t : List Assignment} {ch : Chars} :
    candidateProduct t ch = 0 ↔ ((candidateLists t ch).any fun l => l.isEmpty) = true := by
  simp [candidateProduct, List.prod_eq_zero_iff]

/-- R275's test and the value it gives PROD. -/
theorem feasible_eq (t : List Assignment) (ch : Chars) :
    feasible t ch = (decide (Feasible t ch), prodValue t ch) := by
  simp only [feasible, prodValue, Feasible, ← candidateProduct_eq_zero, Config.prodCap]
  change (if candidateProduct t ch = 0 then _ else if 1000 < candidateProduct t ch then _ else _) = _
  split
  next h => simp [h]
  next h =>
    split
    next hlt => simp [hlt]
    next hle =>
      rw [decide_eq_true (p := _ ∧ _) ⟨h, Nat.le_of_not_lt hle⟩]
      rfl

/-! Characters that decode as they are. -/

/-- Characters that look up have themselves as their only candidates (R274). -/
theorem candidateLists_of_hits {t : List Assignment} {ch : Chars} (h : missCount t ch = 0) :
    candidateLists t ch = ch.toList.map fun p => [p] :=
  List.map_congr_left fun p hp => if_pos ((missCount_eq_zero t ch).mp h p hp)

theorem choices_map_singleton {α : Type} (l : List α) : choices (l.map fun a => [a]) = [l] := by
  induction l with
  | nil => rfl
  | cons a l ih => simp [choices, ih]

/-- Characters that decode strictly are their own only valid combination, and the search for it is feasible. -/
theorem validChoices_of_decodeChars_ok {t : List Assignment} {ch : Chars} {d : Decoded} (h : decodeChars t ch = .ok d) :
    Feasible t ch ∧ validChoices t ch = [ch] := by
  obtain ⟨c, hc, -⟩ := decodeChars_ok t ch d h
  have hlists := candidateLists_of_hits (cwDecode_ok t ch c hc).1
  have hself : vecFrom 10 0 ch.toList = ch := Vector.toList_inj.mp (toList_vecFrom _ _ _ ch.length_toList)
  constructor
  · have hprod : candidateProduct t ch = 1 := by simp [candidateProduct, hlists, Function.comp_def]
    simp [Feasible, hprod]
  · rw [validChoices, hlists, choices_map_singleton, List.map_singleton, hself,
      List.filter_singleton, valid_of_decodeChars_ok h, cond_true]

end Sys2Proof.Machine
end

section
/-! PROOFS. DECODE (`46_encode_decode.md` R253, R255): how it ends, as a function of the text alone. The phase machine
and R253's pseudocode both carry out that end, so they are equal and the result depends on nothing but the text. -/

namespace Sys2Proof.Machine

open Sys2Proof.Claims

/-! The end of a DECODE. -/

/-- How a DECODE ends (R253). -/
inductive Verdict where
  /-- A failure with its status and reason. -/
  | fails (st : Status) (r : Reason)
  /-- The commit of the symbols that were read. -/
  | reads (sy : Candidate) (d : Decoded)
  /-- The commit of a repair. -/
  | repairs (c : Corrected) (d : Decoded)

/-- What the end writes (R253, R254). -/
def Verdict.carryOut : Verdict → State → State
  | .fails st r, s => raise st r s
  | .reads sy d, s => complete (commitDecoded sy d s)
  | .repairs c d, s => raise .okRepaired .none (commitRepaired c d s)

/-- A failure has a status and a reason that go together; what is committed is a decode of its own characters. -/
inductive Verdict.Sound (t : List Assignment) : Verdict → Prop
  | fails {st : Status} {r : Reason} (hf : Failure st r) : Sound t (.fails st r)
  | reads (sy : Candidate) {d : Decoded} (hd : d.Sound t) : Sound t (.reads sy d)
  | repairs (c : Corrected) {d : Decoded} (hd : d.Sound t) : Sound t (.repairs c d)

/-- The end of a DECODE with the diagnostics beside it. -/
structure DecodeOutcome where
  verdict : Verdict
  errcnt : BitVec 4
  prod : BitVec 11

/-- What the end writes, diagnostics included. -/
def DecodeOutcome.carryOut (o : DecodeOutcome) (s : State) : State :=
  o.verdict.carryOut { s with errcnt := o.errcnt, prod := o.prod }

/-- The end when nothing valid was found (R253, R278): by the strict decode of the flipped candidate, by that of the
candidate itself, and by whether the search was infeasible. -/
def lastResort : Except Reason Decoded → Except Reason Decoded → Bool → Verdict
  | .ok _, _, _ => .fails .orientation .none
  | .error _, _, true => .fails .unrecoverable .none
  | .error _, own, false => .fails .invalid (failureReason own)

/-- The last resort of a candidate: the flip (R253). -/
def flipVerdict (t : List Assignment) (c : Corrected) (infeasible : Bool) : Verdict :=
  lastResort (strict t (flipCandidate c.cand)) (strict t c.cand) infeasible

/-- The end of a search (R253, R276). -/
def searchVerdict (t : List Assignment) (c : Corrected) : Verdict :=
  match solutions t (symsToChars c.cand) with
  | [] => flipVerdict t c false
  | [d] => .repairs c d
  | _ :: _ :: _ => .fails .ambiguous .none

/-- The end of a repair, with the diagnostics of CANDGEN (R253, R275). -/
def repairOutcome (t : List Assignment) (c : Corrected) : DecodeOutcome where
  verdict := if Feasible t (symsToChars c.cand) then searchVerdict t c else flipVerdict t c true
  errcnt := BitVec.ofNat 4 (missCount t (symsToChars c.cand))
  prod := prodValue t (symsToChars c.cand)

/-- 65 symbols that do not decode are the candidate themselves (R253). -/
def uncorrected (t : List Assignment) (sy : Candidate) : Corrected :=
  { cand := sy, kind := .none, pos := 0, misses := misses t sy }

/-- An end without a repair: the diagnostics stay cleared. -/
def withoutRepair (v : Verdict) : DecodeOutcome := ⟨v, 0, 0⟩

/-- The end for 65 symbols (R253). -/
def strictOutcome (t : List Assignment) (sy : Candidate) : DecodeOutcome :=
  match strict t sy with
  | .ok d => withoutRepair (.reads sy d)
  | .error _ => repairOutcome t (uncorrected t sy)

/-- The end for 64 or 66 symbols (R253). -/
def lengthOutcome (t : List Assignment) (sy : List Symbol) : DecodeOutcome :=
  match lengthFix t sy with
  | none => withoutRepair (.fails .formatLength .none)
  | some c => repairOutcome t c

/-- The end of a DECODE, from its text (R253). -/
def textOutcome (t : List Assignment) (text : List Byte) : DecodeOutcome :=
  match toSymbols text with
  | none => withoutRepair (.fails .formatSymbol .none)
  | some sy =>
    if sy.length = 65 then strictOutcome t (toCandidate sy)
    else if sy.length = 64 ∨ sy.length = 66 then lengthOutcome t sy
    else withoutRepair (.fails .formatLength .none)

/-- On cleared diagnostics the end without a repair is the verdict alone. -/
theorem carryOut_withoutRepair (v : Verdict) {s : State} (he : s.errcnt = 0) (hp : s.prod = 0) :
    (withoutRepair v).carryOut s = v.carryOut s := by
  rw [DecodeOutcome.carryOut, withoutRepair, ← he, ← hp]

/-! The end is sound. -/

theorem flipVerdict_sound (t : List Assignment) (c : Corrected) (infeasible : Bool) :
    (flipVerdict t c infeasible).Sound t := by
  have hown : failureReason (strict t c.cand) ≠ .none := failureReason_ne_none
  rw [flipVerdict]
  generalize strict t c.cand = own at hown
  cases strict t (flipCandidate c.cand) with
  | ok d => exact .fails failure_orientation
  | error r =>
    cases infeasible with
    | true => exact .fails failure_unrecoverable
    | false => exact .fails (failure_invalid hown)

theorem searchVerdict_sound (t : List Assignment) (c : Corrected) : (searchVerdict t c).Sound t := by
  unfold searchVerdict
  split
  next => exact flipVerdict_sound t c false
  next d hd => exact .repairs c (solutions_sound (hd ▸ List.mem_singleton_self d))
  next => exact .fails failure_ambiguous

theorem repairOutcome_sound (t : List Assignment) (c : Corrected) : (repairOutcome t c).verdict.Sound t := by
  unfold repairOutcome
  dsimp only
  split
  · exact searchVerdict_sound t c
  · exact flipVerdict_sound t c true

theorem strictOutcome_sound (t : List Assignment) (sy : Candidate) : (strictOutcome t sy).verdict.Sound t := by
  unfold strictOutcome
  split
  next d hd => exact .reads sy (decodeChars_sound hd)
  next => exact repairOutcome_sound t _

theorem lengthOutcome_sound (t : List Assignment) (sy : List Symbol) : (lengthOutcome t sy).verdict.Sound t := by
  unfold lengthOutcome
  split
  next => exact .fails failure_formatLength
  next c _ => exact repairOutcome_sound t c

theorem textOutcome_sound (t : List Assignment) (text : List Byte) : (textOutcome t text).verdict.Sound t := by
  unfold textOutcome
  split
  next => exact .fails failure_formatSymbol
  next sy _ =>
    split_ifs
    · exact strictOutcome_sound t _
    · exact lengthOutcome_sound t sy
    · exact .fails failure_formatLength

/-! The phase machine carries the end out (R270): the run from each phase on, from the last phase up. -/

/-- The last phase of a DECODE that ends so. -/
def Verdict.job : Verdict → Job
  | .fails st r => .fail st r
  | .reads sy d => .decodeCommit sy d
  | .repairs c d => .repairCommit c d

theorem runJob_job (k : Nat) (v : Verdict) (s : State) : runJob (k + 1) (enter v.job s) = v.carryOut s := by
  show runJob k (advance v.job (setPhase (jobPhase v.job) s)) = v.carryOut s
  have hadvance : advance v.job (setPhase (jobPhase v.job) s) = (.idle, v.carryOut s) := by cases v <;> rfl
  rw [hadvance, runJob_idle]

theorem decodeFlip_eq_job (c : Corrected) (infeasible : Bool) (s : State) :
    decodeFlip c infeasible s = (flipVerdict s.tables c infeasible).job := by
  unfold decodeFlip flipVerdict
  generalize strict s.tables c.cand = own
  cases strict s.tables (flipCandidate c.cand) with
  | ok d => rfl
  | error r => cases infeasible <;> rfl

theorem runJob_decodeFlip (k : Nat) (c : Corrected) (infeasible : Bool) (s : State) :
    runJob (k + 2) (enter (.decodeFlip c infeasible) s) = (flipVerdict s.tables c infeasible).carryOut s := by
  show runJob (k + 1) (enter (decodeFlip c infeasible (setPhase .flip s)) s) = _
  rw [decodeFlip_eq_job, runJob_job, setPhase_tables]

theorem runJob_decodeSearch (k : Nat) (c : Corrected) (s : State) :
    runJob (k + 3) (enter (.decodeSearch c) s) = (searchVerdict s.tables c).carryOut s := by
  show runJob (k + 2) (enter (decodeSearch c (setPhase .search s)) s) = _
  simp only [decodeSearch, searchVerdict, setPhase_tables]
  rcases solutions s.tables (symsToChars c.cand) with - | ⟨d, - | ⟨d', ds⟩⟩
  · exact runJob_decodeFlip k c false s
  · exact runJob_job (k + 1) (.repairs c d) s
  · exact runJob_job (k + 1) (.fails _ _) s

theorem runJob_decodeCandgen (k : Nat) (c : Corrected) (s : State) :
    runJob (k + 4) (enter (.decodeCandgen c) s) = (repairOutcome s.tables c).carryOut s := by
  show runJob (k + 3) (enter (decodeCandgen c (setPhase .candgen s)) (writeDiagnostics (symsToChars c.cand) s)) = _
  simp only [decodeCandgen, DecodeOutcome.carryOut, repairOutcome, setPhase_tables, feasible_eq, decide_eq_true_eq,
    writeDiagnostics]
  split
  · exact runJob_decodeSearch k c _
  · exact runJob_decodeFlip (k + 1) c true _

section
variable {s : State} (he : s.errcnt = 0) (hp : s.prod = 0)
include he hp

theorem runJob_job_withoutRepair (k : Nat) (v : Verdict) :
    runJob (k + 1) (enter v.job s) = (withoutRepair v).carryOut s := by
  rw [runJob_job, carryOut_withoutRepair v he hp]

theorem runJob_decodeStrict (k : Nat) (sy : Candidate) :
    runJob (k + 5) (enter (.decodeStrict sy) s) = (strictOutcome s.tables sy).carryOut s := by
  show runJob (k + 4) (enter (decodeStrict sy (setPhase .strict s)) s) = _
  simp only [decodeStrict, strictOutcome, setPhase_tables]
  cases strict s.tables sy with
  | ok d => exact runJob_job_withoutRepair he hp (k + 3) (.reads sy d)
  | error r => exact runJob_decodeCandgen k (uncorrected s.tables sy) s

theorem runJob_decodeLenscan (k : Nat) (sy : List Symbol) :
    runJob (k + 5) (enter (.decodeLenscan sy) s) = (lengthOutcome s.tables sy).carryOut s := by
  show runJob (k + 4) (enter (decodeLenscan sy (setPhase .lenscan s)) s) = _
  simp only [decodeLenscan, lengthOutcome, setPhase_tables]
  cases lengthFix s.tables sy with
  | none => exact runJob_job_withoutRepair he hp (k + 3) (.fails _ _)
  | some c => exact runJob_decodeCandgen k c s

theorem runJob_decodeNorm :
    runJob maxTransitions (enter .decodeNorm s) = (textOutcome s.tables (textOf s)).carryOut s := by
  show runJob 5 (enter (decodeNorm s) s) = _
  simp only [decodeNorm, textOutcome]
  cases toSymbols (textOf s) with
  | none => exact runJob_job_withoutRepair he hp 4 (.fails _ _)
  | some sy =>
    dsimp only
    split_ifs
    · exact runJob_decodeStrict he hp 0 (toCandidate sy)
    · exact runJob_decodeLenscan he hp 0 sy
    · exact runJob_job_withoutRepair he hp 4 (.fails _ _)

end

/-- DECODE carries out what its text decides, on the built tables and the cleared outputs. -/
theorem exec_decode_eq {s : State} (hs : s.TablesOk) :
    exec .decode s = .next ((textOutcome builtTables (textOf s)).carryOut (clearDecodeOutputs (built s))) := by
  have hbuilt : ensureTables s = built s := ensureTables_of_tablesOk s hs
  show execDecode s = _
  rw [execDecode, hbuilt, runJob_decodeNorm (s := clearDecodeOutputs (built s)) rfl rfl]
  rfl

/-- DECODE fails or commits, from any tables (R253). -/
theorem exec_decode_ends {s t : State} (h : exec .decode s = .next t) :
    DecodeEnds (clearDecodeOutputs (ensureTables s)) t := by
  cases h
  exact decodeNorm_ends ⟨Nat.zero_le _, .inl (Nat.zero_le _)⟩

/-! The pseudocode carries the same end out (R253). -/

/-- Where the candidate is not the only valid combination, it does not decode itself. -/
theorem exists_strict_error {t : List Assignment} {sy : Candidate}
    (h : ¬ (Feasible t (symsToChars sy) ∧ validChoices t (symsToChars sy) = [symsToChars sy])) :
    ∃ reason, strict t sy = .error reason := by
  cases hd : strict t sy with
  | ok d => exact absurd (validChoices_of_decodeChars_ok hd) h
  | error reason => exact ⟨reason, rfl⟩

/-- A combination that the search found is decoded again from its symbols (R253). -/
theorem strict_charsToSyms {t : List Assignment} {d : Decoded} (h : d.Sound t) :
    strict t (charsToSyms d.ch) = .ok d := by
  rw [strict, symsToChars_charsToSyms]
  exact h

/-- The commit of a repair, as R253 writes it. -/
theorem carryOut_repairs (c : Corrected) (d : Decoded) (s : State) :
    (Verdict.repairs c d).carryOut s
      = ended .okRepaired .none
          { committed c.cand d s with
            ch := d.ch
            sug := Vector.ofFn fun i => symbolByte (charsToSyms d.ch)[i]
            hl := Vector.ofFn fun i => decide (c.cand[i] ≠ (charsToSyms d.ch)[i])
            lfk := c.kind
            lfp := BitVec.ofNat 7 c.pos } := by
  have hhl : (fun i : Fin 65 => decide (c.cand[i] ≠ (charsToSyms d.ch)[i]))
      = fun i => c.cand[i] != (charsToSyms d.ch)[i] := by
    funext i
    rw [Bool.eq_iff_iff, decide_eq_true_iff, bne_iff_ne]
  rw [hhl]
  rfl

/-- R253 from `SEQ <- CANDGEN` on: where nothing valid is found the candidate does not decode, so that every branch ends
the command. -/
theorem repairReference_eq (c : Corrected) (s : State) :
    repairReference c.cand c.kind c.pos s = (repairOutcome builtTables c).carryOut s := by
  unfold repairReference
  extract_lets ch0 s1 last
  have hright : (repairOutcome builtTables c).carryOut s = Verdict.carryOut
      (if Feasible builtTables ch0 then searchVerdict builtTables c else flipVerdict builtTables c true) s1 := by
    rw [DecodeOutcome.carryOut, repairOutcome]
  have hlast (h : ¬ (Feasible builtTables ch0 ∧ validChoices builtTables ch0 = [ch0])) :
      last = (flipVerdict builtTables c (!decide (Feasible builtTables ch0))).carryOut s1 := by
    obtain ⟨reason, hown⟩ := exists_strict_error h
    simp only [last, flipVerdict, hown]
    cases strict builtTables (flipCandidate c.cand) with
    | ok d => rfl
    | error r =>
      dsimp only
      by_cases hf : Feasible builtTables ch0
      · rw [if_pos hf, decide_eq_true hf]
        rfl
      · rw [if_neg hf, decide_eq_false hf]
        rfl
  rw [hright]
  by_cases hf : Feasible builtTables ch0
  · rw [if_pos hf, if_pos hf, searchVerdict]
    cases searched builtTables ch0 with
    | none hv hs =>
      rw [hlast (by simp [hv]), decide_eq_true hf, hv, hs]
      rfl
    | one d hd hv hs =>
      rw [hv, hs]
      simp only [strict_charsToSyms hd]
      exact (carryOut_repairs c d s1).symm
    | more ch ch' chs d d' ds hv hs =>
      rw [hv, hs]
      rfl
  · rw [if_neg hf, if_neg hf, hlast fun h => hf h.1, decide_eq_false hf]
    rfl

theorem decodeReference_eq (s : State) :
    decodeReference s = (textOutcome builtTables (textOf s)).carryOut (clearDecodeOutputs (built s)) := by
  unfold decodeReference textOutcome
  dsimp only
  cases toSymbols (textOf s) with
  | none => rfl
  | some sy =>
    dsimp only
    split_ifs
    · rw [strictOutcome]
      cases strict builtTables (toCandidate sy) with
      | ok d => rfl
      | error r => exact repairReference_eq (uncorrected builtTables (toCandidate sy)) (clearDecodeOutputs (built s))
    · rw [lengthOutcome]
      cases lengthFix builtTables sy with
      | none => rfl
      | some c => exact repairReference_eq c (clearDecodeOutputs (built s))
    · rfl

/-! The statements. -/

theorem fieldOf_commitRepaired {c : Corrected} {d : Decoded} (h : d.record.Fits) (s : State) (f : Fin 7) :
    fieldOf (raise .okRepaired .none (commitRepaired c d s)) f = (recordFields d.record)[f] :=
  fieldOf_commitDecoded h c.cand s f

/-- Settles O48: the phase machine and the pseudocode carry out the same end of the text. -/
theorem decodeFollowsItsPseudocode : Obligations.DecodeFollowsItsPseudocode := by
  refine ⟨by decide, ?_⟩
  intro s hs
  exact (exec_decode_eq hs).trans (congrArg _ (decodeReference_eq s).symm)

/-- Settles O49: of the ends of a DECODE only a failure is no success, and it writes nothing but the cleared outputs and
the diagnostics. -/
theorem failedDecodeCommitsNothing : Obligations.FailedDecodeCommitsNothing := by
  intro s t h hfail
  cases exec_decode_ends h with
  | fails hf hd => rfl
  | reads sy hr hd => exact absurd (.inl rfl) hfail
  | repairs hc hr hd => exact absurd (.inr rfl) hfail

/-- Settles O50: what an end writes does not depend on the state, and a committed record fits its buffers. -/
theorem decodeDependsOnTheTextAlone : Obligations.DecodeDependsOnTheTextAlone := by
  intro s1 s2 t1 t2 hs1 hs2 htext h1 h2
  rw [exec_decode_eq hs1] at h1
  rw [exec_decode_eq hs2, ← htext] at h2
  have hsound := textOutcome_sound builtTables (textOf s1)
  generalize textOutcome builtTables (textOf s1) = o at h1 h2 hsound
  obtain ⟨verdict, e, p⟩ := o
  cases h1
  cases h2
  cases hsound with
  | fails hf => exact ⟨rfl, rfl, rfl, rfl, rfl, rfl, rfl, rfl, rfl, fun hok => absurd hok hf.1⟩
  | reads sy hd =>
    have hfield (s : State) := fieldOf_commitDecoded hd.record_fits sy s
    simp [DecodeOutcome.carryOut, Verdict.carryOut, writeRecord_rlen, hfield]
  | repairs c hd =>
    have hfield (s : State) := fieldOf_commitRepaired (c := c) hd.record_fits s
    simp [DecodeOutcome.carryOut, Verdict.carryOut, writeRecord_rlen, hfield]

end Sys2Proof.Machine
end

section
/-! PROOFS. The length correction (`47_repair.md` R272, R273): `length_fix` scans the variants and keeps the first of
those that score least; LENFIX commits what it keeps. -/

namespace Sys2Proof.Machine

open Sys2Proof.Claims

/-! The scan. -/

/-- `c` is the first of the variants that score least. -/
structure FirstBest (vs : List Corrected) (c : Corrected) : Prop where
  mem : c ∈ vs
  le : ∀ v ∈ vs, c.misses ≤ v.misses
  lt : ∀ v ∈ vs, v.pos < c.pos → c.misses < v.misses

/-- A variant that scores less than those behind it is first and best. -/
theorem firstBest_cons_self {v : Corrected} {vs : List Corrected} (hpos : ∀ u ∈ vs, v.pos < u.pos)
    (hle : ∀ u ∈ vs, v.misses ≤ u.misses) : FirstBest (v :: vs) v where
  mem := List.mem_cons_self
  le := List.forall_mem_cons.mpr ⟨le_rfl, hle⟩
  lt := List.forall_mem_cons.mpr ⟨fun h => absurd h (lt_irrefl _), fun u hu h => absurd h (hpos u hu).asymm⟩

/-- A variant that scores more may stand in front of the first best one. -/
theorem FirstBest.cons {v c : Corrected} {vs : List Corrected} (h : FirstBest vs c) (hlt : c.misses < v.misses) :
    FirstBest (v :: vs) c where
  mem := List.mem_cons_of_mem v h.mem
  le := List.forall_mem_cons.mpr ⟨hlt.le, h.le⟩
  lt := List.forall_mem_cons.mpr ⟨fun _ => hlt, h.lt⟩

/-- R272's scan keeps what it had, where no variant scores less than the best so far, or the first best variant. -/
theorem scanBest_some {vs : List Corrected} {best : Nat} {out : Option Corrected} {c : Corrected}
    (hpos : vs.Pairwise fun u v => u.pos < v.pos) (h : scanBest vs best out = some c) :
    (out = some c ∧ ∀ v ∈ vs, best ≤ v.misses) ∨ (c.misses < best ∧ FirstBest vs c) := by
  induction vs generalizing best out with
  | nil => exact .inl ⟨h, List.forall_mem_nil _⟩
  | cons v vs ih =>
    obtain ⟨hv, hvs⟩ := List.pairwise_cons.mp hpos
    rw [scanBest] at h
    split at h
    next hlt =>
      rcases ih hvs h with ⟨hc, hle⟩ | ⟨hc, hbest⟩
      · cases hc
        exact .inr ⟨hlt, firstBest_cons_self hv hle⟩
      · exact .inr ⟨hc.trans hlt, hbest.cons hc⟩
    next hge =>
      have hge := Nat.le_of_not_lt hge
      rcases ih hvs h with ⟨hc, hle⟩ | ⟨hc, hbest⟩
      · exact .inl ⟨hc, List.forall_mem_cons.mpr ⟨hge, hle⟩⟩
      · exact .inr ⟨hc, hbest.cons (hc.trans_le hge)⟩

/-! The variants. -/

/-- R272's variant at position p, with its kind and its score. -/
def variant (t : List Assignment) (sy : List Symbol) (p : Nat) : Corrected where
  cand := toCandidate (variantAt sy p)
  kind := variantKind sy
  pos := p
  misses := misses t (toCandidate (variantAt sy p))

/-- All variants of R272, position 0 first. -/
def variants (t : List Assignment) (sy : List Symbol) : List Corrected :=
  (List.range (variantCount sy)).map (variant t sy)

theorem insertions_eq_variants (t : List Assignment) {sy : List Symbol} (h : sy.length = 64) :
    insertions t sy = variants t sy := by
  rw [insertions, variants, variantCount, if_pos h]
  exact List.map_congr_left fun p _ => by simp [variant, variantAt, variantKind, h]

theorem deletions_eq_variants (t : List Assignment) {sy : List Symbol} (h : sy.length = 66) :
    deletions t sy = variants t sy := by
  have h64 : sy.length ≠ 64 := by omega
  rw [deletions, variants, variantCount, if_neg h64, if_pos h]
  exact List.map_congr_left fun p _ => by simp [variant, variantAt, variantKind, h64]

/-- `length_fix` is R272's scan of the variants; a length with nothing to fix has none. -/
theorem lengthFix_eq_scanBest (t : List Assignment) (sy : List Symbol) :
    lengthFix t sy = scanBest (variants t sy) Config.lenCap none := by
  by_cases h64 : sy.length = 64
  · rw [lengthFix_of_64 t sy h64, insertions_eq_variants t h64]
  by_cases h66 : sy.length = 66
  · rw [lengthFix_of_66 t sy h66, deletions_eq_variants t h66]
  · simp [lengthFix, variants, variantCount, h64, h66, scanBest]

theorem mem_variants {t : List Assignment} {sy : List Symbol} {c : Corrected} :
    c ∈ variants t sy ↔ ∃ p < variantCount sy, variant t sy p = c := by
  simp [variants]

theorem variants_pairwise_pos (t : List Assignment) (sy : List Symbol) :
    (variants t sy).Pairwise fun u v => u.pos < v.pos :=
  List.pairwise_map.mpr List.pairwise_lt_range

theorem misses_variant (t : List Assignment) (sy : List Symbol) (p : Nat) :
    (variant t sy p).misses = misses t (toCandidate (variantAt sy p)) := by
  rw [variant]

/-- Every variant has 65 symbols. -/
theorem length_variantAt {sy : List Symbol} {p : Nat} (hp : p < variantCount sy) : (variantAt sy p).length = 65 := by
  unfold variantCount at hp
  unfold variantAt
  split_ifs at hp ⊢ <;> simp <;> omega

/-- Settles O52: `length_fix` is R272's scan of the variants, and every variant is its position's. -/
theorem lengthFixKeepsTheFirstBest : Obligations.LengthFixKeepsTheFirstBest := by
  intro t sy
  rw [lengthFix_eq_scanBest]
  refine ⟨fun c hc => ?kept, ?none⟩
  case kept =>
    obtain ⟨hcap, hbest⟩ := (scanBest_some (variants_pairwise_pos t sy) hc).resolve_left fun h => nomatch h.1
    have hvariant (q : Nat) (hq : q < variantCount sy) : variant t sy q ∈ variants t sy :=
      mem_variants.mpr ⟨q, hq, rfl⟩
    obtain ⟨p, hp, rfl⟩ := mem_variants.mp hbest.mem
    refine ⟨hp, toList_toCandidate (length_variantAt hp), rfl, misses_variant t sy p, Nat.le_of_lt_succ hcap,
      fun q hq => ?_⟩
    rw [← misses_variant t sy q]
    exact ⟨hbest.le _ (hvariant q hq), hbest.lt _ (hvariant q hq)⟩
  case none =>
    simp only [scanBest_none, variants, List.forall_mem_map, List.mem_range, misses_variant, Config.lenCap]

/-! LENFIX. -/

/-- A FAIL phase raises and writes nothing else (R270). -/
theorem runJob_fail (k : Nat) (st : Status) (r : Reason) (s : State) :
    runJob (k + 1) (enter (.fail st r) s) = raise st r s := runJob_idle k _

theorem runJob_lenfixScan (k : Nat) (sy : List Symbol) (s : State) :
    runJob (k + 2) (enter (.lenfixScan sy) s)
      = match lengthFix s.tables sy with
        | none => raise .formatLength .none s
        | some c => complete (commitLength c s) := by
  show runJob (k + 1) (enter (lenfixScan sy s) s) = _
  rw [lenfixScan]
  cases lengthFix s.tables sy with
  | none => exact runJob_fail k _ _ s
  | some c => exact runJob_idle k _

/-- Settles O53: NORM reads the symbols, LENSCAN asks `length_fix`, COMMIT or FAIL ends the command (R270). -/
theorem lenfixResult : Obligations.LenfixResult := by
  refine ⟨by decide, fun s hs => congrArg Host.Outcome.next ?_⟩
  have hbuilt : ensureTables s = built s := ensureTables_of_tablesOk s hs
  show runJob 5 (enter (lenfixNorm (ensureTables s)) (ensureTables s)) = _
  have htext : textOf (built s) = textOf s := rfl
  rw [hbuilt, lenfixNorm, htext]
  cases toSymbols (textOf s) with
  | none => exact runJob_fail 4 _ _ _
  | some sy =>
    dsimp only
    rw [runJob_lenfixScan 3]
    have htables : (built s).tables = builtTables := rfl
    rw [htables]
    cases lengthFix builtTables sy <;> rfl

end Sys2Proof.Machine
end

section
/-! PROOFS. BITFIX (`47_repair.md` R274 to R277): the candidates' product decides whether the search is made, and the
number of valid combinations how it ends. -/

namespace Sys2Proof.Machine

open Sys2Proof.Claims

/-- Settles O54: the search adds the decodes of the combinations in their order, and keeps two. -/
theorem searchFindsTheValidCombinations : Obligations.SearchFindsTheValidCombinations := map_ch_solutions

/-- The end of a feasible search, by the valid combinations (R277). -/
def bitfixEnd (t : List Assignment) (ch : Chars) (s : State) : List Chars → State
  | [] => raise .invalid (bitfixReason t ch) s
  | [sol] => complete { s with ch := sol }
  | _ :: _ :: _ => raise .ambiguous .none s

/-- SEARCH ends so (R270, R276). -/
theorem runJob_bitfixSearch (k : Nat) (s : State) :
    runJob (k + 2) (enter .bitfixSearch s) = bitfixEnd s.tables s.ch s (validChoices s.tables s.ch) := by
  show runJob (k + 1) (enter (bitfixSearch s) s) = _
  rw [bitfixSearch]
  cases searched s.tables s.ch with
  | none hv hs =>
    rw [hv, hs]
    exact runJob_fail k _ _ s
  | one d hd hv hs =>
    rw [hv, hs]
    exact runJob_idle k _
  | more c c' cs d d' ds hv hs =>
    rw [hv, hs]
    exact runJob_fail k _ _ s

/-- The end of a BITFIX, on the state with CANDGEN's diagnostics (R275, R277). -/
def bitfixOutcome (t : List Assignment) (ch : Chars) (s : State) : State :=
  if Feasible t ch then bitfixEnd t ch s (validChoices t ch) else raise .unrecoverable .none s

/-- CANDGEN writes the diagnostics and goes on to that end (R270, R275). -/
theorem runJob_bitfixCandgen (k : Nat) (s : State) :
    runJob (k + 4) (enter .bitfixCandgen s) = bitfixOutcome s.tables s.ch (writeDiagnostics s.ch s) := by
  show runJob (k + 3) (enter (bitfixCandgen s) (writeDiagnostics s.ch s)) = _
  rw [bitfixCandgen, bitfixOutcome, feasible_eq]
  by_cases hf : Feasible s.tables s.ch
  · rw [if_pos hf, if_pos (decide_eq_true hf)]
    exact runJob_bitfixSearch (k + 1) _
  · rw [if_neg hf, if_neg (by simpa using hf)]
    exact runJob_fail (k + 2) _ _ _

/-- R277's pseudocode comes to the same end. -/
theorem bitfixReference_eq (s : State) :
    bitfixReference s = bitfixOutcome builtTables s.ch (writeDiagnostics s.ch (built s)) := by
  have hdiagnostics : writeDiagnostics s.ch (built s) = { built s with
      errcnt := BitVec.ofNat 4 (missCount builtTables s.ch)
      prod := prodValue builtTables s.ch } := by
    rw [writeDiagnostics, feasible_eq]
    rfl
  rw [hdiagnostics, bitfixReference, bitfixOutcome]
  extract_lets s1
  split
  next =>
    rcases validChoices builtTables s.ch with - | ⟨sol, - | ⟨sol', sols⟩⟩
    · dsimp only [bitfixEnd]
      rw [bitfixReason]
      cases cwDecode builtTables s.ch <;> rfl
    · rfl
    · rfl
  next => rfl

/-- BITFIX on the built tables. -/
theorem exec_bitfix_eq {s : State} (hs : s.TablesOk) :
    exec .bitfix s = .next (bitfixOutcome builtTables s.ch (writeDiagnostics s.ch (built s))) := by
  have hbuilt : ensureTables s = built s := ensureTables_of_tablesOk s hs
  show Host.Outcome.next (runJob (2 + 4) (enter .bitfixCandgen (ensureTables s))) = _
  rw [hbuilt, runJob_bitfixCandgen]
  rfl

/-- Settles O55: the phase machine and the pseudocode come to the same end. -/
theorem bitfixResult : Obligations.BitfixResult := by
  refine ⟨by decide, fun s hs => ?_⟩
  rw [exec_bitfix_eq hs, bitfixReference_eq]

end Sys2Proof.Machine
end

section
/-! PROOFS. The steps that run no command, and runs (`60_exceptions.md` R303, `70_reset_and_hazards.md` R340, R341,
R352). -/

namespace Sys2Proof.Machine

open Sys2Proof.Claims

/-! One step. -/

/-- Settles O6: a word that is not legal does not decode, so the step is R303's. -/
theorem illegalWordWritesStatusOnly : Obligations.IllegalWordWritesStatusOnly := by
  intro s w rest hp hw
  calc step s = runWord w (taken rest s) := step_of_cons hp
    _ = .next (illegalCommand (taken rest s)) := runWord_of_illegal hw _

theorem step_of_nil {s : State} (h : s.host.pending = []) : step s = .next s := by
  rw [step, takeInput_of_nil s h, waitIdle]

/-- Settles O7: nothing is taken from the port, or the reset is, and the host keeps its side. -/
theorem idleWaitsAndResetResets : Obligations.IdleWaitsAndResetResets :=
  ⟨fun _ => step_of_nil, fun _ _ hp => step_of_cons hp⟩

/-- Settles O60: the state after reset is what a reset makes of it. -/
theorem resetIsLegal : Obligations.ResetIsLegal := inv_resetBlock State.reset

/-! Runs (R352). -/

theorem perform_next (i : Input) (s : State) : ∃ t, perform i s = .next t := by
  cases i with
  | command w =>
    rw [perform_command, runWord]
    split
    · exact exec_next _ s
    · exact ⟨_, rfl⟩
  | read a =>
    show ∃ t, hostRead a s = .next t
    unfold hostRead
    split <;> exact ⟨_, rfl⟩
  | write a d =>
    show ∃ t, hostWrite a d s = .next t
    unfold hostWrite
    split <;> exact ⟨_, rfl⟩
  | reset => exact ⟨_, rfl⟩

theorem step_next (s : State) : ∃ t, step s = .next t := by
  cases hp : s.host.pending with
  | nil => exact ⟨s, step_of_nil hp⟩
  | cons i rest =>
    rw [step_of_cons hp]
    exact perform_next i _

theorem run_succ_of_step {M : Host.Core} {s t : M.State} (h : M.step s = .next t) (k : Nat) :
    M.run (k + 1) s = M.run k t := by
  rw [Host.Core.run, h]

/-- Settles O8: by induction on the number of steps, each of which answers a next state. -/
theorem runsNeverStop : Obligations.RunsNeverStop := by
  intro k
  induction k with
  | zero => exact fun s => ⟨s, rfl⟩
  | succ k ih =>
    intro s
    obtain ⟨t, ht⟩ := step_next s
    rw [SafeFor, run_succ_of_step ht]
    exact ih t

/-! After reset (R340). -/

/-- Nothing is highlighted after reset. -/
theorem hlWord_reset (k : Fin 3) : hlWord State.reset k = 0 := by
  have hlist : State.reset.hl.toList = List.replicate 65 false := Vector.toList_replicate
  have hclear (j : Nat) : (List.replicate 65 false).getD j false = false := by
    rw [List.getD_eq_getElem?_getD, List.getElem?_replicate]
    split <;> rfl
  simp only [hlWord, hlist, hclear, Bool.false_eq_true, if_false, List.foldl_fixed]

/-- Settles O9: register by register. -/
theorem resetReadsZero : Obligations.ResetReadsZero := by
  refine ⟨fun r htables hperm => ?zero, rfl, fun _ _ => rfl, step_of_nil rfl⟩
  cases r with
  | status | reason | flags | rem | fcs | rfcs | errcnt | prod | lenfix | seq | txtlen => decide
  | num i | ch n | cw n | rlen f | txt i | cand i | sug i | recb f i => simp [regValue, State.reset, symbolCode]
  | hl k => exact hlWord_reset k
  | perm i => exact absurd rfl (hperm i)
  | enc k | dec p => cases htables

end Sys2Proof.Machine
end

section
/-! PROOFS. What each command can raise, and what a raise writes (`60_exceptions.md` R301, R302): read off from the
commands' own results. -/

namespace Sys2Proof.Machine

open Sys2Proof.Claims

/-- R302 lists the status for the command, with the reason. -/
def MayRaise (i : Instr) (st : Status) (r : Reason) : Prop := ∃ e ∈ mayRaise i, st = e.1 ∧ r ∈ e.2

/-- No status that R302 lists is a success. -/
theorem MayRaise.not_success {i : Instr} {st : Status} {r : Reason} (h : MayRaise i st r) : ¬ st.Success := by
  obtain ⟨e, he, rfl, -⟩ := h
  have hall : ∀ e ∈ mayRaise i, e.1 ≠ .ok ∧ e.1 ≠ .okRepaired := by
    cases i <;> simp [mayRaise]
  exact not_or.mpr (hall e he)

/-- The end `t` of the command `i` from `s` is as R302 says. -/
inductive EndsAsListed (i : Instr) (s : State) : State → Prop
  | succeeds (u : State) : EndsAsListed i s (ended .ok .none u)
  | repairs (hi : i = .decode) (u : State) : EndsAsListed i s (ended .okRepaired .none u)
  | raises {st : Status} {r : Reason} {u : State} (hlisted : MayRaise i st r)
    (hframe : ended st r u = raiseFrame i s (ended st r u)) : EndsAsListed i s (ended st r u)

section
variable {s t : State} (hs : s.TablesOk)

theorem mpdivmod_endsAsListed {a : BitVec 20} (h : exec (.mpdivmod a) s = .next t) :
    EndsAsListed (.mpdivmod a) s t := by
  obtain ⟨hzero, hdivides⟩ := mpdivmodResult.2 a s
  by_cases ha : a = 0
  · cases h.symm.trans (hzero ha)
    exact .raises (by simp [MayRaise, mayRaise]) rfl
  · obtain ⟨t', ht', heq, -⟩ := hdivides ha
    cases h.symm.trans ht'
    exact heq ▸ .succeeds _

theorem loadtxt_endsAsListed (h : exec .loadtxt s = .next t) : EndsAsListed .loadtxt s t := by
  cases hsy : toSymbols (textOf s) with
  | none =>
    cases h.symm.trans (exec_loadtxt_of_none hsy)
    exact .raises (by simp [MayRaise, mayRaise]) rfl
  | some sy =>
    rw [exec_loadtxt_of_some hsy] at h
    split at h <;> cases h
    · exact .succeeds _
    · exact .raises (by simp [MayRaise, mayRaise]) rfl

include hs in
theorem cwenc_endsAsListed (h : exec .cwenc s = .next t) : EndsAsListed .cwenc s t := by
  cases hr : cwEncode builtTables s.num with
  | none =>
    cases h.symm.trans (exec_cwenc_of_none hs hr)
    exact .raises (by simp [MayRaise, mayRaise]) rfl
  | some r =>
    cases h.symm.trans (exec_cwenc_of_some hs hr)
    exact .succeeds _

/-- The reasons of `cw_decode` are those of its four checks (R203). -/
theorem cwDecode_error_mem {tb : List Assignment} {ch : Chars} {r : Reason} (h : cwDecode tb ch = .error r) :
    r ∈ [.lookup, .range, .odd, .fcs] := by
  unfold cwDecode at h
  dsimp only at h
  split_ifs at h <;> cases h <;> decide

include hs in
theorem cwdec_endsAsListed (h : exec .cwdec s = .next t) : EndsAsListed .cwdec s t := by
  cases hd : cwDecode builtTables s.ch with
  | error r =>
    cases h.symm.trans (exec_cwdec_of_error hs hd)
    exact .raises ⟨_, List.mem_singleton_self _, rfl, cwDecode_error_mem hd⟩ rfl
  | ok d =>
    cases h.symm.trans (exec_cwdec_of_ok hs hd)
    exact .succeeds _

/-- Validation reports the status of one of R223's seven steps. -/
theorem validate_mem {r : Record} {st : Status} (h : validate r = some st) :
    st ∈ [.vZip, .vPlus4, .vDeliveryPt, .vBarcodeId, .vServiceType, .vMailerId, .vSerialNum] := by
  rw [validationReportsTheFirstViolation] at h
  obtain ⟨step, hstep, rfl⟩ := Option.map_eq_some_iff.mp h
  exact List.mem_map_of_mem (f := fun step => step.2) (List.mem_of_find?_eq_some hstep)

theorem pack_endsAsListed (h : exec .pack s = .next t) : EndsAsListed .pack s t := by
  cases hv : validate (normalisedRecord s) with
  | some st =>
    cases h.symm.trans (exec_pack_of_some hv)
    exact .raises (by simpa [MayRaise, mayRaise] using validate_mem hv) rfl
  | none =>
    cases h.symm.trans (exec_pack_of_none hv)
    exact .succeeds _

theorem unpack_endsAsListed (h : exec .unpack s = .next t) : EndsAsListed .unpack s t := by
  cases hres : (unpack s.num).residue with
  | true =>
    cases h.symm.trans (exec_unpack_of_residue hres)
    exact .raises (by simp [MayRaise, mayRaise]) rfl
  | false =>
    cases h.symm.trans (exec_unpack_of_no_residue hres)
    exact .succeeds _

include hs in
theorem encode_endsAsListed (h : exec .encode s = .next t) : EndsAsListed .encode s t := by
  cases hv : validate (normalisedRecord s) with
  | some st =>
    cases h.symm.trans (exec_encode_of_invalid hs hv)
    exact .raises (by simpa [MayRaise, mayRaise] using validate_mem hv) rfl
  | none =>
    obtain ⟨r, hr⟩ := exists_cwEncode_pack hv builtTables
    cases h.symm.trans (exec_encode_of_valid hs hv hr)
    exact .succeeds _

include hs in
theorem lenfix_endsAsListed (h : exec .lenfix s = .next t) : EndsAsListed .lenfix s t := by
  cases h.symm.trans (lenfixResult.2 s hs)
  split
  next => exact .raises (by simp [MayRaise, mayRaise]) rfl
  next =>
    split
    next => exact .raises (by simp [MayRaise, mayRaise]) rfl
    next => exact .succeeds _

end

/-- R302 lists INVALID for DECODE and for BITFIX with every reason there is (R30). -/
theorem mayRaise_invalid {i : Instr} (hi : i = .decode ∨ i = .bitfix) {r : Reason} (hr : r ≠ .none) :
    MayRaise i .invalid r := by
  have hmem : r ∈ [.lookup, .range, .odd, .fcs, .route] := by
    cases r with
    | none => exact absurd rfl hr
    | lookup | range | odd | fcs | route => decide
  rcases hi with rfl | rfl <;> simpa [MayRaise, mayRaise] using hmem

theorem bitfixEnd_endsAsListed {s u : State} (tb : List Assignment) (ch : Chars) (sols : List Chars)
    (hframe : ∀ st r, ended st r u = raiseFrame .bitfix s (ended st r u)) :
    EndsAsListed .bitfix s (bitfixEnd tb ch u sols) := by
  rcases sols with - | ⟨sol, - | ⟨sol', sols⟩⟩
  · exact .raises (mayRaise_invalid (.inr rfl) (bitfixReason_ne_none tb ch)) (hframe _ _)
  · exact .succeeds _
  · exact .raises (by simp [MayRaise, mayRaise]) (hframe _ _)

theorem bitfix_endsAsListed {s t : State} (hs : s.TablesOk) (h : exec .bitfix s = .next t) :
    EndsAsListed .bitfix s t := by
  cases h.symm.trans (exec_bitfix_eq hs)
  rw [bitfixOutcome]
  split
  · exact bitfixEnd_endsAsListed _ _ _ fun _ _ => rfl
  · exact .raises (by simp [MayRaise, mayRaise]) rfl

/-! DECODE: a failure's reason goes with its status already; what is left is the list of statuses. -/

/-- The statuses a DECODE fails with (R302). -/
def decodeFailures : List Status :=
  [.formatSymbol, .formatLength, .unrecoverable, .invalid, .ambiguous, .orientation]

/-- The verdict, where it is a failure, has one of these statuses. -/
def Verdict.Listed (v : Verdict) : Prop := ∀ st r, v = .fails st r → st ∈ decodeFailures

theorem listed_fails {st : Status} (h : st ∈ decodeFailures) (r : Reason) : (Verdict.fails st r).Listed := by
  rintro _ _ ⟨⟩
  exact h

theorem flipVerdict_listed (tb : List Assignment) (c : Corrected) (infeasible : Bool) :
    (flipVerdict tb c infeasible).Listed := by
  rw [flipVerdict]
  cases strict tb (flipCandidate c.cand) with
  | ok d => exact listed_fails (by decide) _
  | error r => cases infeasible <;> exact listed_fails (by decide) _

theorem repairOutcome_listed (tb : List Assignment) (c : Corrected) : (repairOutcome tb c).verdict.Listed := by
  unfold repairOutcome searchVerdict
  dsimp only
  split
  · split
    · exact flipVerdict_listed tb c false
    · exact nofun
    · exact listed_fails (by decide) _
  · exact flipVerdict_listed tb c true

theorem textOutcome_listed (tb : List Assignment) (text : List Byte) : (textOutcome tb text).verdict.Listed := by
  unfold textOutcome
  split
  next => exact listed_fails (by decide) _
  next sy _ =>
    split_ifs
    · unfold strictOutcome
      split
      · exact nofun
      · exact repairOutcome_listed tb _
    · unfold lengthOutcome
      split
      · exact listed_fails (by decide) _
      · exact repairOutcome_listed tb _
    · exact listed_fails (by decide) _

theorem mayRaise_decode {st : Status} {r : Reason} (hf : Failure st r) (h : st ∈ decodeFailures) :
    MayRaise .decode st r := by
  by_cases hi : st = .invalid
  · subst hi
    exact mayRaise_invalid (.inl rfl) (hf.2.mp rfl)
  · have hr : r = .none := not_not.mp (mt hf.2.mpr hi)
    subst hr
    simpa [MayRaise, mayRaise, decodeFailures, hi] using h

theorem decode_endsAsListed {s t : State} (hs : s.TablesOk) (h : exec .decode s = .next t) :
    EndsAsListed .decode s t := by
  cases h.symm.trans (exec_decode_eq hs)
  have hsound := textOutcome_sound builtTables (textOf s)
  have hlisted := textOutcome_listed builtTables (textOf s)
  generalize textOutcome builtTables (textOf s) = o at hsound hlisted
  obtain ⟨verdict, e, p⟩ := o
  cases hsound with
  | fails hf => exact .raises (mayRaise_decode hf (hlisted _ _ rfl)) rfl
  | reads sy hd => exact .succeeds _
  | repairs c hd => exact .repairs rfl _

/-- Every command ends as R302 says. -/
theorem exec_endsAsListed {i : Instr} {s t : State} (hs : s.TablesOk) (h : exec i s = .next t) :
    EndsAsListed i s t := by
  cases i with
  | tblbuild | mpclr | mpisz | mpadd b | mpsub b | mpmuladd a b | fcscalc | permfwd | perminv | flipad =>
    cases h
    exact .succeeds _
  | mpdivmod a => exact mpdivmod_endsAsListed h
  | loadtxt => exact loadtxt_endsAsListed h
  | cwenc => exact cwenc_endsAsListed hs h
  | cwdec => exact cwdec_endsAsListed hs h
  | pack => exact pack_endsAsListed h
  | unpack => exact unpack_endsAsListed h
  | encode => exact encode_endsAsListed hs h
  | decode => exact decode_endsAsListed hs h
  | lenfix => exact lenfix_endsAsListed hs h
  | bitfix => exact bitfix_endsAsListed hs h

/-- Settles O58: a success, a repair and a raise each meet the three clauses. -/
theorem failuresWriteOnlyWhatIsListed : Obligations.FailuresWriteOnlyWhatIsListed := by
  intro i s t hs h
  cases exec_endsAsListed hs h with
  | succeeds u => exact ⟨nofun, fun _ => rfl, fun hfail => absurd (.inl rfl) hfail⟩
  | repairs hi u => exact ⟨fun _ => hi, fun _ => rfl, fun hfail => absurd (.inr rfl) hfail⟩
  | raises hlisted hframe =>
    exact ⟨fun hok => absurd (.inr hok) hlisted.not_success, fun hok => absurd hok hlisted.not_success,
      fun _ => ⟨hlisted, hframe⟩⟩

end Sys2Proof.Machine
end
